-- ==== Sys2Proof/Word.lean ====
section
/-! DEFINITION. The word types of the machine (00_scope.md R6, R7; 30_encoding.md R61): every value is
an unsigned bit vector; bit 0 is the least significant bit. -/

namespace Sys2Proof

/-- A general register, a timer, a byte of memory, a literal `nn`. -/
abbrev Byte := BitVec 8

/-- An instruction word, `pc`, the 16-bit container of `I`, a return address. -/
abbrev Word := BitVec 16

/-- A register field `x`, `y`, or the literal `n`. -/
abbrev Nibble := BitVec 4

/-- The literal address `nnn`. -/
abbrev Addr := BitVec 12

end Sys2Proof
end

