-- ==== Sys2Proof/Syntax.lean ====
section
/-! DEFINITION. The instructions: one constructor per row of spec/opcode_table.json, in the table's order
(30_encoding.md R66, R67, R69). The five reserved classes are rows of the table and execute, so they are
constructors too. -/

namespace Sys2Proof

inductive Instr where
  /-- `00E0` CLS -/
  | cls
  /-- `00EE` RET -/
  | ret
  /-- `0nnn` SYS nnn, every other word of family 0 -/
  | sys (nnn : Addr)
  /-- `1nnn` JP nnn -/
  | jp (nnn : Addr)
  /-- `2nnn` CALL nnn -/
  | call (nnn : Addr)
  /-- `3xnn` SE Vx, nn -/
  | seImm (x : Nibble) (nn : Byte)
  /-- `4xnn` SNE Vx, nn -/
  | sneImm (x : Nibble) (nn : Byte)
  /-- `5xy0` SE Vx, Vy -/
  | seReg (x y : Nibble)
  /-- `6xnn` LD Vx, nn -/
  | ldImm (x : Nibble) (nn : Byte)
  /-- `7xnn` ADD Vx, nn -/
  | addImm (x : Nibble) (nn : Byte)
  /-- `8xy0` LD Vx, Vy -/
  | ldReg (x y : Nibble)
  /-- `8xy1` OR Vx, Vy -/
  | orReg (x y : Nibble)
  /-- `8xy2` AND Vx, Vy -/
  | andReg (x y : Nibble)
  /-- `8xy3` XOR Vx, Vy -/
  | xorReg (x y : Nibble)
  /-- `8xy4` ADD Vx, Vy -/
  | addReg (x y : Nibble)
  /-- `8xy5` SUB Vx, Vy -/
  | subReg (x y : Nibble)
  /-- `8xy6` SHR Vx, Vy -/
  | shr (x y : Nibble)
  /-- `8xy7` SUBN Vx, Vy -/
  | subn (x y : Nibble)
  /-- `8xyE` SHL Vx, Vy -/
  | shl (x y : Nibble)
  /-- `9xy0` SNE Vx, Vy -/
  | sneReg (x y : Nibble)
  /-- `Annn` LD I, nnn -/
  | ldI (nnn : Addr)
  /-- `Bnnn` JP V0, nnn; its register field `x` under `Q_JUMP` is `nnn[11:8]` -/
  | jpV0 (nnn : Addr)
  /-- `Cxnn` RND Vx, nn -/
  | rnd (x : Nibble) (nn : Byte)
  /-- `Dxyn` DRW Vx, Vy, n -/
  | drw (x y n : Nibble)
  /-- `Ex9E` SKP Vx -/
  | skp (x : Nibble)
  /-- `ExA1` SKNP Vx -/
  | sknp (x : Nibble)
  /-- `Fx07` LD Vx, DT -/
  | ldVxDt (x : Nibble)
  /-- `Fx0A` LD Vx, K -/
  | ldVxK (x : Nibble)
  /-- `Fx15` LD DT, Vx -/
  | ldDtVx (x : Nibble)
  /-- `Fx18` LD ST, Vx -/
  | ldStVx (x : Nibble)
  /-- `Fx1E` ADD I, Vx -/
  | addI (x : Nibble)
  /-- `Fx29` LD F, Vx -/
  | ldF (x : Nibble)
  /-- `Fx33` LD B, Vx -/
  | ldB (x : Nibble)
  /-- `Fx55` LD [I], Vx -/
  | ldMemVx (x : Nibble)
  /-- `Fx65` LD Vx, [I] -/
  | ldVxMem (x : Nibble)
  /-- `5xyN`, N not 0: reserved, a no-op -/
  | reserved5 (x y n : Nibble)
  /-- `8xyN`, N in 8, 9, A, B, C, D, F: reserved, a no-op -/
  | reserved8 (x y n : Nibble)
  /-- `9xyN`, N not 0: reserved, a no-op -/
  | reserved9 (x y n : Nibble)
  /-- `ExNN`, NN not 9E, A1: reserved, a no-op -/
  | reservedE (x : Nibble) (nn : Byte)
  /-- `FxNN`, NN none of the nine sub-opcodes: reserved, a no-op -/
  | reservedF (x : Nibble) (nn : Byte)
  deriving DecidableEq, Repr

end Sys2Proof
end

