-- ==== Sys2Proof/WellFormed.lean ====
section
/-! DEFINITION. Which terms of `Instr` are instructions: the operands of a constructor must name a word of
its own row of the table (30_encoding.md R66, R67; the table's `except` lists). Every other field admits
every value. -/

namespace Sys2Proof

/-- `0nnn` yields to `00E0` and `00EE`. -/
def Instr.sysFree (nnn : Addr) : Bool := nnn != 0x0E0#12 && nnn != 0x0EE#12

/-- The low nibbles of family 8 that name no instruction. -/
def Instr.free8 (n : Nibble) : Bool := 8 ≤ n.toNat && n.toNat != 14

/-- The low bytes of family E that name no instruction. -/
def Instr.freeE (nn : Byte) : Bool := nn != 0x9E#8 && nn != 0xA1#8

/-- The low bytes of family F that name no instruction. -/
def Instr.freeF (nn : Byte) : Bool :=
  nn != 0x07#8 && nn != 0x0A#8 && nn != 0x15#8 && nn != 0x18#8 && nn != 0x1E#8 && nn != 0x29#8 &&
    nn != 0x33#8 && nn != 0x55#8 && nn != 0x65#8

def Instr.wf : Instr → Bool
  | .sys nnn => Instr.sysFree nnn
  | .reserved5 _ _ n => n != 0#4
  | .reserved8 _ _ n => Instr.free8 n
  | .reserved9 _ _ n => n != 0#4
  | .reservedE _ nn => Instr.freeE nn
  | .reservedF _ nn => Instr.freeF nn
  | .cls => true
  | .ret => true
  | .jp _ => true
  | .call _ => true
  | .seImm _ _ => true
  | .sneImm _ _ => true
  | .seReg _ _ => true
  | .ldImm _ _ => true
  | .addImm _ _ => true
  | .ldReg _ _ => true
  | .orReg _ _ => true
  | .andReg _ _ => true
  | .xorReg _ _ => true
  | .addReg _ _ => true
  | .subReg _ _ => true
  | .shr _ _ => true
  | .subn _ _ => true
  | .shl _ _ => true
  | .sneReg _ _ => true
  | .ldI _ => true
  | .jpV0 _ => true
  | .rnd _ _ => true
  | .drw _ _ _ => true
  | .skp _ => true
  | .sknp _ => true
  | .ldVxDt _ => true
  | .ldVxK _ => true
  | .ldDtVx _ => true
  | .ldStVx _ => true
  | .addI _ => true
  | .ldF _ => true
  | .ldB _ => true
  | .ldMemVx _ => true
  | .ldVxMem _ => true

end Sys2Proof
end

