-- ==== Sys2Proof/Decode.lean ====
section
/-! DEFINITION. The instruction decoder and the encoder (30_encoding.md R60 to R69). The decoder reads the two
bytes high byte first (20_memory.md R43), cuts the fields from their fixed positions (R61) and dispatches as R66
does; every 16-bit word is an instruction (R68, R69), so the one way to be refused is to have fewer than two
bytes. -/

namespace Sys2Proof

/-- Why a byte sequence is no instruction. -/
inductive DecodeError where
  /-- fewer than two bytes: there is one length, two bytes (R60) -/
  | truncated
  deriving DecidableEq, Repr

/-- What the decoder answers: an instruction and the bytes after it, or the reason there is none. -/
inductive Decoded where
  | instr (i : Instr) (rest : List Byte)
  | rejected (why : DecodeError)
  deriving DecidableEq, Repr

/-! ## Fields of the word (R61) -/

def fieldOp (w : Word) : Nibble := w.extractLsb' 12 4
def fieldX (w : Word) : Nibble := w.extractLsb' 8 4
def fieldY (w : Word) : Nibble := w.extractLsb' 4 4
def fieldN (w : Word) : Nibble := w.extractLsb' 0 4
def fieldNn (w : Word) : Byte := w.extractLsb' 0 8
def fieldNnn (w : Word) : Addr := w.extractLsb' 0 12

/-! ## The decoder (R66, R67) -/

/-- Family 0: the whole word decides. -/
def decode0 (w : Word) : Instr :=
  if w = 0x00E0#16 then .cls else if w = 0x00EE#16 then .ret else .sys (fieldNnn w)

/-- Family 5: `n` must be 0. -/
def decode5 (w : Word) : Instr :=
  if fieldN w = 0#4 then .seReg (fieldX w) (fieldY w) else .reserved5 (fieldX w) (fieldY w) (fieldN w)

/-- Family 8: `n` selects the operation. -/
def decode8 (w : Word) : Instr :=
  match (fieldN w).toNat with
  | 0x0 => .ldReg (fieldX w) (fieldY w)
  | 0x1 => .orReg (fieldX w) (fieldY w)
  | 0x2 => .andReg (fieldX w) (fieldY w)
  | 0x3 => .xorReg (fieldX w) (fieldY w)
  | 0x4 => .addReg (fieldX w) (fieldY w)
  | 0x5 => .subReg (fieldX w) (fieldY w)
  | 0x6 => .shr (fieldX w) (fieldY w)
  | 0x7 => .subn (fieldX w) (fieldY w)
  | 0xE => .shl (fieldX w) (fieldY w)
  | _ => .reserved8 (fieldX w) (fieldY w) (fieldN w)

/-- Family 9: `n` must be 0. -/
def decode9 (w : Word) : Instr :=
  if fieldN w = 0#4 then .sneReg (fieldX w) (fieldY w) else .reserved9 (fieldX w) (fieldY w) (fieldN w)

/-- Family E: `nn` selects the operation. -/
def decodeE (w : Word) : Instr :=
  match (fieldNn w).toNat with
  | 0x9E => .skp (fieldX w)
  | 0xA1 => .sknp (fieldX w)
  | _ => .reservedE (fieldX w) (fieldNn w)

/-- Family F: `nn` selects the operation. -/
def decodeF (w : Word) : Instr :=
  match (fieldNn w).toNat with
  | 0x07 => .ldVxDt (fieldX w)
  | 0x0A => .ldVxK (fieldX w)
  | 0x15 => .ldDtVx (fieldX w)
  | 0x18 => .ldStVx (fieldX w)
  | 0x1E => .addI (fieldX w)
  | 0x29 => .ldF (fieldX w)
  | 0x33 => .ldB (fieldX w)
  | 0x55 => .ldMemVx (fieldX w)
  | 0x65 => .ldVxMem (fieldX w)
  | _ => .reservedF (fieldX w) (fieldNn w)

/-- The instruction of a 16-bit word, for every word (R69). The last arm is `op` = 15. -/
def decodeWord (w : Word) : Instr :=
  match (fieldOp w).toNat with
  | 0x0 => decode0 w
  | 0x1 => .jp (fieldNnn w)
  | 0x2 => .call (fieldNnn w)
  | 0x3 => .seImm (fieldX w) (fieldNn w)
  | 0x4 => .sneImm (fieldX w) (fieldNn w)
  | 0x5 => decode5 w
  | 0x6 => .ldImm (fieldX w) (fieldNn w)
  | 0x7 => .addImm (fieldX w) (fieldNn w)
  | 0x8 => decode8 w
  | 0x9 => decode9 w
  | 0xA => .ldI (fieldNnn w)
  | 0xB => .jpV0 (fieldNnn w)
  | 0xC => .rnd (fieldX w) (fieldNn w)
  | 0xD => .drw (fieldX w) (fieldY w) (fieldN w)
  | 0xE => decodeE w
  | _ => decodeF w

/-- The instruction word of two bytes, the first the high byte (20_memory.md R43). -/
def joinBytes (hi lo : Byte) : Word := hi ++ lo

/-- Decoding of any byte sequence. -/
def decode : List Byte → Decoded
  | hi :: lo :: rest => .instr (decodeWord (joinBytes hi lo)) rest
  | [_] => .rejected .truncated
  | [] => .rejected .truncated

/-! ## The encoder, from the same table (R62) -/

/-- Format `NNN`. -/
def wordNnn (op : Nibble) (nnn : Addr) : Word := op ++ nnn
/-- Format `XNN`, and `XFF` with the sub-opcode as the low byte. -/
def wordXnn (op x : Nibble) (nn : Byte) : Word := op ++ x ++ nn
/-- Format `XYN`, and `XYF` with the sub-opcode as the low nibble. -/
def wordXyn (op x y n : Nibble) : Word := op ++ x ++ y ++ n

/-- The word of an instruction. -/
def encode : Instr → Word
  | .cls => 0x00E0#16
  | .ret => 0x00EE#16
  | .sys nnn => wordNnn 0x0#4 nnn
  | .jp nnn => wordNnn 0x1#4 nnn
  | .call nnn => wordNnn 0x2#4 nnn
  | .seImm x nn => wordXnn 0x3#4 x nn
  | .sneImm x nn => wordXnn 0x4#4 x nn
  | .seReg x y => wordXyn 0x5#4 x y 0x0#4
  | .ldImm x nn => wordXnn 0x6#4 x nn
  | .addImm x nn => wordXnn 0x7#4 x nn
  | .ldReg x y => wordXyn 0x8#4 x y 0x0#4
  | .orReg x y => wordXyn 0x8#4 x y 0x1#4
  | .andReg x y => wordXyn 0x8#4 x y 0x2#4
  | .xorReg x y => wordXyn 0x8#4 x y 0x3#4
  | .addReg x y => wordXyn 0x8#4 x y 0x4#4
  | .subReg x y => wordXyn 0x8#4 x y 0x5#4
  | .shr x y => wordXyn 0x8#4 x y 0x6#4
  | .subn x y => wordXyn 0x8#4 x y 0x7#4
  | .shl x y => wordXyn 0x8#4 x y 0xE#4
  | .sneReg x y => wordXyn 0x9#4 x y 0x0#4
  | .ldI nnn => wordNnn 0xA#4 nnn
  | .jpV0 nnn => wordNnn 0xB#4 nnn
  | .rnd x nn => wordXnn 0xC#4 x nn
  | .drw x y n => wordXyn 0xD#4 x y n
  | .skp x => wordXnn 0xE#4 x 0x9E#8
  | .sknp x => wordXnn 0xE#4 x 0xA1#8
  | .ldVxDt x => wordXnn 0xF#4 x 0x07#8
  | .ldVxK x => wordXnn 0xF#4 x 0x0A#8
  | .ldDtVx x => wordXnn 0xF#4 x 0x15#8
  | .ldStVx x => wordXnn 0xF#4 x 0x18#8
  | .addI x => wordXnn 0xF#4 x 0x1E#8
  | .ldF x => wordXnn 0xF#4 x 0x29#8
  | .ldB x => wordXnn 0xF#4 x 0x33#8
  | .ldMemVx x => wordXnn 0xF#4 x 0x55#8
  | .ldVxMem x => wordXnn 0xF#4 x 0x65#8
  | .reserved5 x y n => wordXyn 0x5#4 x y n
  | .reserved8 x y n => wordXyn 0x8#4 x y n
  | .reserved9 x y n => wordXyn 0x9#4 x y n
  | .reservedE x nn => wordXnn 0xE#4 x nn
  | .reservedF x nn => wordXnn 0xF#4 x nn

/-- The high and the low byte of a word. -/
def highByte (w : Word) : Byte := w.extractLsb' 8 8
def lowByte (w : Word) : Byte := w.extractLsb' 0 8

/-- The bytes of a word as memory holds them, the high byte first (20_memory.md R43). -/
def wordBytes (w : Word) : List Byte := [highByte w, lowByte w]

/-- The bytes of an instruction as memory holds them. -/
def encodeBytes (i : Instr) : List Byte := wordBytes (encode i)

/-- The first instruction word of a row of the opcode table: the low `nbits` bits of `w`, and no more than
the 16 bits of the one word an instruction has; bits above `nbits` are 0. -/
def tableWord (nbits w : Nat) : Word := BitVec.ofNat 16 (w % 2 ^ nbits)

/-- What the decoder reads from the bytes of a word numbered as spec/opcode_table.json numbers it. -/
def decodeTableWord (nbits w : Nat) : Option Instr :=
  match decode (wordBytes (tableWord nbits w)) with
  | .instr i _ => some i
  | .rejected _ => none

end Sys2Proof
end

