-- ==== Sys2Proof/Config.lean ====
section
/-! DEFINITION. What the specification leaves open: constants with no body, so that a proof holds for
every value of them (00_scope.md R4; 92_eei_decisions.md D8, D17, D18; 93_implementation_defined.md U1, U2,
U13, U14). -/

namespace Sys2Proof

/-- The two readings of `Fx1E` without overflow (42_index_memory.md R121): write 0, or leave `V[15]`. -/
inductive VfElse where
  | clear
  | keep
  deriving DecidableEq, Repr, Inhabited

/-- Parameter `FX1E_VF_ELSE`, left OPEN by 92_eei_decisions.md D8. Log entry 5 (DESIGN CHOICE, safe). -/
opaque Config.fx1eVfElse : VfElse

/-- The key snapshot the host presents at free draw `k`. Log entry 3 (DESIGN CHOICE, safe). -/
opaque Config.keysIn : Nat → BitVec 16

/-- The random byte the host presents at free draw `k`. Log entry 4 (DESIGN CHOICE, safe). -/
opaque Config.randIn : Nat → Byte

/-- How many ticks fall before the cycle of free draw `k`. Log entry 2 (DESIGN CHOICE, safe). -/
opaque Config.ticksBefore : Nat → Nat

end Sys2Proof
end

