-- ==== Sys2Proof/Machine/State.lean ====
section
/-! DEFINITION. The state of the machine as plain data (10_state.md R10 to R31), why a step can stop, and the
state after reset (10_state.md R30). -/

namespace Sys2Proof.Machine

/-- The fault latch (10_state.md R23) with the codes of 60_exceptions.md R160. The spec's faults are latched in
the state and halt the block (R168, R170); they are next states of the model, not stops (log entry 10). -/
inductive FaultCode where
  | none
  | fetchOob
  | memOob
  | stackOverflow
  | stackUnderflow
  deriving DecidableEq, Repr

/-- What the host presents while it asserts `rst` (10_state.md R27, R29; 70_reset_and_hazards.md R192). -/
structure ResetInputs where
  image : List Byte
  font : Vector Byte 80
  qShift : Bool
  qJump : Bool
  qIndex : Bool
  deriving DecidableEq, Repr

/-- One request of the host with the input values present at its sampling points (10_state.md R27, R29). -/
inductive HostRequest where
  /-- a `step` strobe: one cycle, with the key bits and the random byte it samples -/
  | step (keysIn : BitVec 16) (randIn : Byte)
  /-- a `tick` strobe: one tick -/
  | tick
  /-- `rst` asserted: the reset transition -/
  | rst (inputs : ResetInputs)
  deriving DecidableEq, Repr

/-- The display buffer: 32 rows of 64 pixels, `disp[r][c]` (10_state.md R18, 43_display.md R132). -/
abbrev Display := Vector (Vector Bool 64) 32

structure State where
  /-- `V[0..15]` (R11); `V[15]` is the flag (R12) -/
  v : Vector Byte 16
  /-- `I` in its 16-bit container (R13) -/
  i : Word
  /-- `pc` (R14) -/
  pc : Word
  /-- `stack[0..15]` (R15) -/
  stack : Vector Word 16
  /-- `sp`, the number of entries in use, 0 to 16 (R15) -/
  sp : BitVec 5
  /-- `DT` (R16) -/
  dt : Byte
  /-- `ST` (R17) -/
  st : Byte
  /-- `disp` (R18) -/
  disp : Display
  /-- `key[0..15]`, bit `k` for key `k` (R19) -/
  key : BitVec 16
  /-- `dirty` (R20) -/
  dirty : Bool
  /-- `Q_SHIFT` (R22) -/
  qShift : Bool
  /-- `Q_JUMP` (R22) -/
  qJump : Bool
  /-- `Q_INDEX` (R22) -/
  qIndex : Bool
  /-- the fault latch (R23) -/
  fault : FaultCode
  /-- `mem` (R24): the addresses whose byte differs from the reset contents, rising, each with its byte -/
  mem : List Host.Cell
  /-- the port `keys_in` (R27): the value of the last step request -/
  keysIn : BitVec 16
  /-- the port `rand_in` (R27): the value of the last step request -/
  randIn : Byte
  /-- the model's own: the host's requests not yet performed, oldest first (log entry 1) -/
  hostQueue : List HostRequest
  /-- the model's own: the index of the next free draw (log entries 2, 3, 4) -/
  hostTime : Nat
  deriving DecidableEq, Repr

/-- Why the model stops. The four faults of the spec do not stop it: they are latched (log entry 10). -/
inductive Fault where
  /-- Raised by `2nnn` and `00EE` when `sp` is above 16, so that the call-stack slot to access does not exist
  (10_state.md R15). No run reaches such a state (10_state.md R26). Safe: the model stops where the spec says
  nothing. Log entry 9. -/
  | stackSlotAbsent
  deriving DecidableEq, Repr

/-- Why the model gives an instruction no meaning. -/
inductive Refusal where
  /-- Raised by `exec` for an instruction without a meaning; no arm of `exec` raises it. Safe. -/
  | notModelled (mnemonic : String)
  deriving DecidableEq, Repr

/-- The outcome of an instruction or of a step. -/
abbrev Result := Host.Outcome State Fault Refusal

/-- The machine right after reset (10_state.md R30) with the default font, the empty image and the straps
unconnected (log entries 6, 7, 8); memory holds its reset contents, so nothing is listed. The last four fields
are ports and the model's own (log entry 11). -/
def State.reset : State where
  v := Vector.replicate 16 0#8
  i := 0#16
  pc := 0x200#16
  stack := Vector.replicate 16 0#16
  sp := 0#5
  dt := 0#8
  st := 0#8
  disp := Vector.replicate 32 (Vector.replicate 64 false)
  key := 0#16
  dirty := false
  qShift := false
  qJump := false
  qIndex := false
  fault := .none
  mem := []
  keysIn := 0#16
  randIn := 0#8
  hostQueue := []
  hostTime := 0

end Sys2Proof.Machine
end

