-- ==== Sys2Proof/Machine/Font.lean ====
section
/-! DEFINITION. The default font table (10_state.md R31): 16 glyphs of 5 bytes, glyph `d` at `0x050 + 5d`. The
bytes are the conventional ones, supplied by the spec from general knowledge (92_eei_decisions.md D14;
PRESUMED, log entry 6). -/

namespace Sys2Proof.Machine

/-- `FONT_BASE` (00_scope.md R4). -/
def fontBase : Nat := 0x050

/-- `GLYPH_HEIGHT` (00_scope.md R4). -/
def glyphHeight : Nat := 5

def glyphs0to7 : List Byte :=
  [0xF0, 0x90, 0x90, 0x90, 0xF0,  0x20, 0x60, 0x20, 0x20, 0x70,
   0xF0, 0x10, 0xF0, 0x80, 0xF0,  0xF0, 0x10, 0xF0, 0x10, 0xF0,
   0x90, 0x90, 0xF0, 0x10, 0x10,  0xF0, 0x80, 0xF0, 0x10, 0xF0,
   0xF0, 0x80, 0xF0, 0x90, 0xF0,  0xF0, 0x10, 0x20, 0x40, 0x40]

def glyphs8toF : List Byte :=
  [0xF0, 0x90, 0xF0, 0x90, 0xF0,  0xF0, 0x90, 0xF0, 0x10, 0xF0,
   0xF0, 0x90, 0xF0, 0x90, 0x90,  0xE0, 0x90, 0xE0, 0x90, 0xE0,
   0xF0, 0x80, 0x80, 0x80, 0xF0,  0xE0, 0x90, 0x90, 0x90, 0xE0,
   0xF0, 0x80, 0xF0, 0x80, 0xF0,  0xF0, 0x80, 0xF0, 0x80, 0x80]

/-- The default of the parameter `FONT`. -/
def defaultFont : List Byte := glyphs0to7 ++ glyphs8toF

end Sys2Proof.Machine
end

