-- ==== Sys2Proof/Machine/Memory.lean ====
section
/-! DEFINITION. Memory as a list of cells in one canonical form (20_memory.md R40 to R48): addresses strictly
rising and below 4096, no cell equal to what an unlisted address reads as. -/

namespace Sys2Proof.Machine

/-- `MEM_SIZE` (00_scope.md R4). -/
abbrev memSize : Nat := 4096

/-- What an unlisted address reads as: the reset contents with the default font and the empty image
(20_memory.md R41). -/
def Memory.blank (a : Nat) : Byte :=
  if fontBase ≤ a then defaultFont.getD (a - fontBase) 0#8 else 0#8

/-- The byte at an address (20_memory.md R42, the case of an address below 4096). -/
def Memory.read (m : List Host.Cell) (a : Nat) : Byte :=
  match m with
  | [] => Memory.blank a
  | c :: rest => if c.1 = a then c.2 else Memory.read rest a

/-- The cell of an address in front of the cells above it, left out when it says nothing. -/
def Memory.put (a : Nat) (b : Byte) (rest : List Host.Cell) : List Host.Cell :=
  if b = Memory.blank a then rest else (a, b) :: rest

/-- Memory with one byte set (20_memory.md R42, R47), in canonical form. -/
def Memory.write (m : List Host.Cell) (a : Nat) (b : Byte) : List Host.Cell :=
  match m with
  | [] => Memory.put a b []
  | c :: rest =>
    if a < c.1 then Memory.put a b (c :: rest)
    else if c.1 = a then Memory.put a b rest
    else c :: Memory.write rest a b

/-- Bytes stored at ascending addresses (20_memory.md R44, R46). -/
def Memory.writeList (m : List Host.Cell) (base : Nat) (bytes : List Byte) : List Host.Cell :=
  match bytes with
  | [] => m
  | b :: rest => Memory.writeList (Memory.write m base b) (base + 1) rest

/-- Every cell is above `low` in rising order, below 4096, and differs from the unlisted byte. -/
def Memory.wfFrom (low : Nat) (m : List Host.Cell) : Bool :=
  match m with
  | [] => true
  | c :: rest =>
    decide (low ≤ c.1) && decide (c.1 < memSize) && decide (c.2 ≠ Memory.blank c.1) &&
      Memory.wfFrom (c.1 + 1) rest

/-- The canonical form. -/
def Memory.wf (m : List Host.Cell) : Bool := Memory.wfFrom 0 m

end Sys2Proof.Machine
end

