-- ==== Sys2Proof/Machine/Ops.lean ====
section
/-! DEFINITION. The named operations over registers, call stack, memory, display and the fault latch
(00_scope.md R8). Every instruction is written over these. -/

namespace Sys2Proof.Machine

/-! ## General registers (10_state.md R11) -/

/-- `V[x]`. -/
def State.readV (s : State) (x : Nibble) : Byte := s.v[x.toNat]

/-- `V[x] <- b`. -/
def State.writeV (s : State) (x : Nibble) (b : Byte) : State := { s with v := s.v.set x.toNat b }

/-! ## Program counter (10_state.md R14) -/

/-- `pc <- target`. -/
def State.jump (s : State) (target : Word) : State := { s with pc := target }

/-- `if c: pc <- pc + 2` (00_scope.md R8, 30_encoding.md R60). -/
def State.skipIf (s : State) (c : Bool) : State := { s with pc := if c then s.pc + 2#16 else s.pc }

/-! ## Index register (10_state.md R13) -/

/-- `I <- v`, with `v` masked to 12 bits as every write of `I` must be (R13). -/
def State.writeI (s : State) (v : Nat) : State := { s with i := BitVec.ofNat 16 (v % 0x1000) }

/-! ## Memory (20_memory.md R42, R44, R46) -/

/-- The byte at an address below 4096. -/
def State.byteAt (s : State) (a : Nat) : Byte := Memory.read s.mem a

/-- Bytes stored at ascending addresses from `base`, all below 4096. -/
def State.store (s : State) (base : Nat) (bytes : List Byte) : State :=
  { s with mem := Memory.writeList s.mem base bytes }

/-- `V[0..k-1] <- bytes at base ..` (42_index_memory.md R125), `k` at most 16. -/
def State.loadRegs (s : State) (base k : Nat) : State :=
  { s with v := Vector.ofFn fun j => if j.val < k then s.byteAt (base + j.val) else s.v[j.val] }

/-! ## Faults (60_exceptions.md R168, R169): taking one, the shared operation -/

/-- `raise Fault(code)`: the code is latched and nothing else changes; the block is then halted (R170). There is
no return from a fault (R170): only the reset transition clears the latch. -/
def State.raise (s : State) (code : FaultCode) : State := { s with fault := code }

/-- The block is halted (60_exceptions.md R170). -/
def State.halted (s : State) : Bool := decide (s.fault ≠ .none)

/-- An instruction that accesses `len` bytes at `I`: the whole range is checked before any write
(60_exceptions.md R162, R169); `len` = 0 accesses nothing. -/
def State.dataFaults (s : State) (len : Nat) : Bool :=
  decide (0 < len) && decide (memSize ≤ s.i.toNat + len - 1)

/-! ## Call stack (10_state.md R15) -/

/-- `stack[sp] <- pc; sp <- sp + 1; pc <- target`, or the fault of a full stack (40_control_flow.md R83). -/
def State.callTo (s : State) (target : Word) : Result :=
  if s.sp = 16#5 then .next (s.raise .stackOverflow)
  else if h : s.sp.toNat < 16 then
    .next { s with stack := s.stack.set s.sp.toNat s.pc h, sp := s.sp + 1#5, pc := target }
  else .fault .stackSlotAbsent

/-- `sp <- sp - 1; pc <- stack[sp]`, or the fault of an empty stack (40_control_flow.md R81). -/
def State.popPc (s : State) : Result :=
  if s.sp = 0#5 then .next (s.raise .stackUnderflow)
  else if h : s.sp.toNat - 1 < 16 then
    .next { s with sp := s.sp - 1#5, pc := s.stack[s.sp.toNat - 1] }
  else .fault .stackSlotAbsent

/-! ## Display (43_display.md R130 to R132) -/

/-- The pixel at row `r`, column `c`; off outside the grid. -/
def pixel (d : Display) (r c : Nat) : Bool :=
  if h : r < 32 ∧ c < 64 then d[r][c] else false

/-- All pixels off. -/
def blankDisplay : Display := Vector.replicate 32 (Vector.replicate 64 false)

/-- One sprite bit at `(px, py)`: clipped outside the grid, else XOR; the flag remembers a pixel that went
from on to off. -/
def plot (a : Display × Bool) (py px : Nat) (bit : Bool) : Display × Bool :=
  if h : py < 32 ∧ px < 64 then
    (a.1.set py (a.1[py].set px (a.1[py][px] ^^ bit)), a.2 || (bit && a.1[py][px]))
  else a

/-- One sprite row: the 8 bits of the byte, the most significant leftmost. -/
def drawRow (b : Byte) (ox py : Nat) (a : Display × Bool) : Display × Bool :=
  (List.range 8).foldl (fun a col => plot a py (ox + col) (b.getLsbD (7 - col))) a

/-- The sprite of `n` rows at `base` in memory, origin column `ox`, row `oy`. -/
def drawSprite (m : List Host.Cell) (base n ox oy : Nat) (d : Display) : Display × Bool :=
  (List.range n).foldl (fun a row => drawRow (Memory.read m (base + row)) ox (oy + row) a) (d, false)

/-! ## Outputs (10_state.md R21, R28) -/

/-- `sound_active` (R21, 60_exceptions.md R174). -/
def State.soundActive (s : State) : Bool := decide (s.st ≠ 0#8)

/-- The number of a fault code (60_exceptions.md R160). -/
def faultNumber : FaultCode → BitVec 3
  | .none => 0#3
  | .fetchOob => 1#3
  | .memOob => 2#3
  | .stackOverflow => 3#3
  | .stackUnderflow => 4#3

/-- The output `status[2:0]` (R28). -/
def State.status (s : State) : BitVec 3 := faultNumber s.fault

/-- The output `display[r][c]` (R28). -/
def State.displayOut (s : State) (r c : Nat) : Bool := pixel s.disp r c

/-- The output `display_dirty` (R28). -/
def State.displayDirty (s : State) : Bool := s.dirty

end Sys2Proof.Machine
end

