-- ==== Sys2Proof/Machine/Operands.lean ====
section
/-! DEFINITION. The operand forms (30_encoding.md R61 to R63): the forms that are more than `V[x]`, `V[y]` or a
literal. -/

namespace Sys2Proof.Machine

/-- A 12-bit literal address as `pc` takes it (30_encoding.md R63). -/
def addrWord (nnn : Addr) : Word := nnn.setWidth 16

/-- The register field `x = nnn[11:8]` of `Bnnn` (30_encoding.md R62). -/
def addrX (nnn : Addr) : Nibble := nnn.extractLsb' 8 4

/-- The offset of `Bnnn`: `V[x]` under `Q_JUMP`, else `V[0]` (40_control_flow.md R88). -/
def State.jumpOffset (s : State) (nnn : Addr) : Byte :=
  if s.qJump then s.readV (addrX nnn) else s.readV 0#4

/-- The value a shift shifts: `V[y]` under `Q_SHIFT`, else `V[x]` (41_arith_logic.md R108, R110). -/
def State.shiftSource (s : State) (x y : Nibble) : Byte := if s.qShift then s.readV y else s.readV x

/-- The bytes `V[0], ..., V[k-1]` (42_index_memory.md R124). -/
def State.regBytes (s : State) (k : Nat) : List Byte := s.v.toList.take k

/-- The column of a sprite's origin (43_display.md R132). -/
def State.originX (s : State) (x : Nibble) : Nat := (s.readV x).toNat % 64

/-- The row of a sprite's origin (43_display.md R132). -/
def State.originY (s : State) (y : Nibble) : Nat := (s.readV y).toNat % 32

/-- The decimal digits of a byte: hundreds, tens, ones (42_index_memory.md R123). -/
def decimalDigits (b : Byte) : List Byte :=
  [BitVec.ofNat 8 (b.toNat / 100), BitVec.ofNat 8 (b.toNat / 10 % 10), BitVec.ofNat 8 (b.toNat % 10)]

/-- `pressed(k)`: the latched key `k`, and no key from 16 on (45_input.md R153). -/
def State.pressed (s : State) (k : Byte) : Bool := s.key.getLsbD k.toNat

/-- The smallest pressed key of the latch; 0 when there is none (45_input.md R152). -/
def lowestKey (key : BitVec 16) : Nat := (List.range 16).findIdx (fun k => key.getLsbD k) % 16

end Sys2Proof.Machine
end

