-- ==== Sys2Proof/Machine/Flags.lean ====
section
/-! DEFINITION. The flag computations (10_state.md R12): `V[15]` is the only flag, and it is written as a whole
register with 0 or 1. -/

namespace Sys2Proof.Machine

/-- A comparison as an 8-bit value (00_scope.md R7). -/
def flagByte (c : Bool) : Byte := if c then 1#8 else 0#8

/-- `V[15] <- b`. -/
def State.writeFlag (s : State) (b : Byte) : State := s.writeV 15#4 b

/-- The carry of an 8-bit sum (41_arith_logic.md R106). -/
def carryOf (a b : Byte) : Byte := flagByte (decide (255 < a.toNat + b.toNat))

/-- No borrow in `a - b` (41_arith_logic.md R107, R109). -/
def noBorrow (a b : Byte) : Byte := flagByte (decide (b.toNat ≤ a.toNat))

/-- The bit shifted out at the bottom (41_arith_logic.md R108). -/
def bottomBit (t : Byte) : Byte := t &&& 1#8

/-- The bit shifted out at the top (41_arith_logic.md R110). -/
def topBit (t : Byte) : Byte := flagByte (decide (t &&& 0x80#8 ≠ 0#8))

/-- The flag after `Fx1E` whose unmasked sum is `sum`: 1 on overflow, else what the open parameter says
(42_index_memory.md R121). -/
def indexFlag (sum : Nat) (old : Byte) : Byte :=
  if 0x1000 ≤ sum then 1#8
  else
    match Config.fx1eVfElse with
    | .clear => 0#8
    | .keep => old

/-- The result first and the flag second: `8xy4`, `8xy5`, `8xy7` (41_arith_logic.md R112). -/
def State.resultThenFlag (s : State) (x : Nibble) (result flag : Byte) : State :=
  (s.writeV x result).writeFlag flag

/-- The flag first and the result second, each computed from `V[x]` as it then stands: `8xy6`, `8xyE`
(41_arith_logic.md R112). -/
def State.flagThenResult (s : State) (x : Nibble) (flag result : Byte → Byte) : State :=
  (s.writeFlag (flag (s.readV x))).writeV x (result ((s.writeFlag (flag (s.readV x))).readV x))

end Sys2Proof.Machine
end

