-- ==== Sys2Proof/Machine/Arith.lean ====
section
/-! DEFINITION. The register load, arithmetic and logic instructions (41_arith_logic.md R100 to R112). The
operands are read before any write; the order of the two writes of a flag-writing instruction is R112's
(log entry 13). -/

namespace Sys2Proof.Machine

/-- `6xnn` (R100). -/
def execLdImm (x : Nibble) (nn : Byte) (s : State) : Result := .next (s.writeV x nn)

/-- `7xnn` (R101): wraps, no flag. -/
def execAddImm (x : Nibble) (nn : Byte) (s : State) : Result := .next (s.writeV x (s.readV x + nn))

/-- `8xy0` (R102). -/
def execLdReg (x y : Nibble) (s : State) : Result := .next (s.writeV x (s.readV y))

/-- `8xy1` (R103). -/
def execOrReg (x y : Nibble) (s : State) : Result := .next (s.writeV x (s.readV x ||| s.readV y))

/-- `8xy2` (R104). -/
def execAndReg (x y : Nibble) (s : State) : Result := .next (s.writeV x (s.readV x &&& s.readV y))

/-- `8xy3` (R105). -/
def execXorReg (x y : Nibble) (s : State) : Result := .next (s.writeV x (s.readV x ^^^ s.readV y))

/-- `8xy4` (R106). -/
def execAddReg (x y : Nibble) (s : State) : Result :=
  .next (s.resultThenFlag x (s.readV x + s.readV y) (carryOf (s.readV x) (s.readV y)))

/-- `8xy5` (R107). -/
def execSubReg (x y : Nibble) (s : State) : Result :=
  .next (s.resultThenFlag x (s.readV x - s.readV y) (noBorrow (s.readV x) (s.readV y)))

/-- `8xy6` (R108). -/
def execShr (x y : Nibble) (s : State) : Result :=
  .next ((s.writeV x (s.shiftSource x y)).flagThenResult x bottomBit (fun t => t >>> 1))

/-- `8xy7` (R109). -/
def execSubn (x y : Nibble) (s : State) : Result :=
  .next (s.resultThenFlag x (s.readV y - s.readV x) (noBorrow (s.readV y) (s.readV x)))

/-- `8xyE` (R110). -/
def execShl (x y : Nibble) (s : State) : Result :=
  .next ((s.writeV x (s.shiftSource x y)).flagThenResult x topBit (fun t => t <<< 1))

end Sys2Proof.Machine
end

