-- ==== Sys2Proof/Machine/ControlFlow.lean ====
section
/-! DEFINITION. The control-flow instructions and the reserved no-op (40_control_flow.md R80 to R89). `pc` has
already been advanced by the fetch: it is the address of the instruction plus 2. -/

namespace Sys2Proof.Machine

/-- `0nnn` (R80): no operation, `nnn` ignored. -/
def execSys (_nnn : Addr) (s : State) : Result := .next s

/-- `00EE` (R81). -/
def execRet (s : State) : Result := s.popPc

/-- `1nnn` (R82). -/
def execJp (nnn : Addr) (s : State) : Result := .next (s.jump (addrWord nnn))

/-- `2nnn` (R83): pushes the advanced `pc`. -/
def execCall (nnn : Addr) (s : State) : Result := s.callTo (addrWord nnn)

/-- `3xnn` (R84). -/
def execSeImm (x : Nibble) (nn : Byte) (s : State) : Result :=
  .next (s.skipIf (decide (s.readV x = nn)))

/-- `4xnn` (R85). -/
def execSneImm (x : Nibble) (nn : Byte) (s : State) : Result :=
  .next (s.skipIf (decide (s.readV x ≠ nn)))

/-- `5xy0` (R86). -/
def execSeReg (x y : Nibble) (s : State) : Result :=
  .next (s.skipIf (decide (s.readV x = s.readV y)))

/-- `9xy0` (R87). -/
def execSneReg (x y : Nibble) (s : State) : Result :=
  .next (s.skipIf (decide (s.readV x ≠ s.readV y)))

/-- `Bnnn` (R88): the sum is neither masked nor wrapped to 12 bits. -/
def execJpV0 (nnn : Addr) (s : State) : Result :=
  .next (s.jump (addrWord nnn + (s.jumpOffset nnn).setWidth 16))

/-- `5xyN`, N not 0 (R89). -/
def execReserved5 (_x _y _n : Nibble) (s : State) : Result := .next s

/-- `8xyN`, N in 8, 9, A, B, C, D, F (R89). -/
def execReserved8 (_x _y _n : Nibble) (s : State) : Result := .next s

/-- `9xyN`, N not 0 (R89). -/
def execReserved9 (_x _y _n : Nibble) (s : State) : Result := .next s

/-- `ExNN`, NN not 9E, A1 (R89). -/
def execReservedE (_x : Nibble) (_nn : Byte) (s : State) : Result := .next s

/-- `FxNN`, NN none of the nine sub-opcodes (R89). -/
def execReservedF (_x : Nibble) (_nn : Byte) (s : State) : Result := .next s

end Sys2Proof.Machine
end

