-- ==== Sys2Proof/Machine/DisplayUpdate.lean ====
section
/-! DEFINITION. The display instructions (43_display.md R130 to R132). -/

namespace Sys2Proof.Machine

/-- `00E0` (R130). -/
def execCls (s : State) : Result := .next { s with disp := blankDisplay, dirty := true }

/-- A sprite drawn from memory: the display, the collision flag and the dirty flag (R131). The origin is read
before the flag is written (log entry 14). -/
def State.drawAt (s : State) (n ox oy : Nat) : State :=
  { s.writeFlag (flagByte (drawSprite s.mem s.i.toNat n ox oy s.disp).2) with
    disp := (drawSprite s.mem s.i.toNat n ox oy s.disp).1
    dirty := s.dirty || decide (0 < n) }

/-- `Dxyn` (R131): the bytes of all `n` rows are checked, clipped or not (log entry 15). -/
def execDrw (x y n : Nibble) (s : State) : Result :=
  .next (if s.dataFaults n.toNat then s.raise .memOob
    else s.drawAt n.toNat (s.originX x) (s.originY y))

end Sys2Proof.Machine
end

