-- ==== Sys2Proof/Machine/IndexMemory.lean ====
section
/-! DEFINITION. The index-register and memory-transfer instructions (42_index_memory.md R120 to R125). Each
checks its whole byte range before any write (60_exceptions.md R169). -/

namespace Sys2Proof.Machine

/-- `Annn` (R120). -/
def execLdI (nnn : Addr) (s : State) : Result := .next (s.writeI nnn.toNat)

/-- `Fx1E` (R121): the sum of the operands as they stand, the flag, then the masked sum. -/
def execAddI (x : Nibble) (s : State) : Result :=
  .next ((s.writeFlag (indexFlag (s.i.toNat + (s.readV x).toNat) (s.readV 15#4))).writeI
    (s.i.toNat + (s.readV x).toNat))

/-- `Fx29` (R122): the whole value of `V[x]`, not its low nibble. -/
def execLdF (x : Nibble) (s : State) : Result :=
  .next (s.writeI (fontBase + glyphHeight * (s.readV x).toNat))

/-- `Fx33` (R123). -/
def execLdB (x : Nibble) (s : State) : Result :=
  .next (if s.dataFaults 3 then s.raise .memOob else s.store s.i.toNat (decimalDigits (s.readV x)))

/-- The index update of `Fx55` (R124). -/
def State.advanceIndex (s : State) (k : Nat) : State :=
  { s with i := if s.qIndex then BitVec.ofNat 16 ((s.i.toNat + k) % 0x1000) else s.i }

/-- `Fx55` (R124). -/
def execLdMemVx (x : Nibble) (s : State) : Result :=
  .next (if s.dataFaults (x.toNat + 1) then s.raise .memOob
    else (s.store s.i.toNat (s.regBytes (x.toNat + 1))).advanceIndex x.toNat)

/-- `Fx65` (R125): `I` is left alone whatever `Q_INDEX`. -/
def execLdVxMem (x : Nibble) (s : State) : Result :=
  .next (if s.dataFaults (x.toNat + 1) then s.raise .memOob else s.loadRegs s.i.toNat (x.toNat + 1))

end Sys2Proof.Machine
end

