-- ==== Sys2Proof/Machine/Input.lean ====
section
/-! DEFINITION. The key-input instructions (45_input.md R150 to R153). They read the snapshot latched at the
start of the same cycle. -/

namespace Sys2Proof.Machine

/-- `Ex9E` (R150). -/
def execSkp (x : Nibble) (s : State) : Result := .next (s.skipIf (s.pressed (s.readV x)))

/-- `ExA1` (R151). -/
def execSknp (x : Nibble) (s : State) : Result := .next (s.skipIf (!s.pressed (s.readV x)))

/-- `Fx0A` (R152): with no key down `pc` goes back to this instruction and `V[x]` keeps its value. -/
def execLdVxK (x : Nibble) (s : State) : Result :=
  .next (State.jump
    (s.writeV x (if s.key = 0#16 then s.readV x else BitVec.ofNat 8 (lowestKey s.key)))
    (if s.key = 0#16 then s.pc - 2#16 else s.pc))

end Sys2Proof.Machine
end

