-- ==== Sys2Proof/Machine/TimersRandom.lean ====
section
/-! DEFINITION. The timer and random-number instructions (44_timers_random.md R140 to R143) and the timer
agent's tick (60_exceptions.md R172). -/

namespace Sys2Proof.Machine

/-- `Fx07` (R140). -/
def execLdVxDt (x : Nibble) (s : State) : Result := .next (s.writeV x s.dt)

/-- `Fx15` (R141). -/
def execLdDtVx (x : Nibble) (s : State) : Result := .next { s with dt := s.readV x }

/-- `Fx18` (R142). -/
def execLdStVx (x : Nibble) (s : State) : Result := .next { s with st := s.readV x }

/-- `Cxnn` (R143): the byte on `rand_in` masked with `nn`. -/
def execRnd (x : Nibble) (nn : Byte) (s : State) : Result := .next (s.writeV x (s.randIn &&& nn))

/-- One timer decrement: never below 0 (R172). -/
def countDown (t : Byte) : Byte := if 0#8 < t then t - 1#8 else t

/-- `Tick()` (R172). -/
def State.tick (s : State) : State :=
  if s.halted then s else { s with dt := countDown s.dt, st := countDown s.st }

/-- `k` decrements at once: `Laws/Cycle.lean` proves them equal to `k` ticks. -/
def countDownBy (k : Nat) (t : Byte) : Byte := if t = 0#8 then t else BitVec.ofNat 8 (t.toNat - k)

/-- `k` ticks at once. -/
def State.ticks (k : Nat) (s : State) : State :=
  if s.halted then s else { s with dt := countDownBy k s.dt, st := countDownBy k s.st }

end Sys2Proof.Machine
end

