-- ==== Sys2Proof/Machine/Reset.lean ====
section
/-! DEFINITION. The reset transition (70_reset_and_hazards.md R190) for every font, image and strap setting. -/

namespace Sys2Proof.Machine

/-- `PROG_BASE` (00_scope.md R4). -/
def progBase : Nat := 0x200

/-- How many image bytes reset copies at most (20_memory.md R49). -/
def imageMax : Nat := 3584

/-- Memory after reset: the font at its base, the image in the program region, 0 elsewhere (20_memory.md R41,
R49). -/
def resetMem (font image : List Byte) : List Host.Cell :=
  Memory.writeList (Memory.writeList [] fontBase font) progBase (image.take imageMax)

/-- The state after `Reset()` (R190, 10_state.md R30), from what the host presents. -/
def State.powerOn (p : ResetInputs) : State :=
  { State.reset with
    qShift := p.qShift
    qJump := p.qJump
    qIndex := p.qIndex
    mem := resetMem p.font.toList p.image }

/-- Reset asserted on a running or halted block: the same state as at any other reset (R190); the ports and the
model's own fields, which belong to the host, stay. -/
def State.resetWith (s : State) (p : ResetInputs) : State :=
  { State.powerOn p with
    keysIn := s.keysIn
    randIn := s.randIn
    hostQueue := s.hostQueue
    hostTime := s.hostTime }

end Sys2Proof.Machine
end

