-- ==== Sys2Proof/Machine/Cycle.lean ====
section
/-! DEFINITION. The fetch, the cycle, and the performance of one request of the host (30_encoding.md R64, R65;
00_scope.md R5; 10_state.md R27, R29). -/

namespace Sys2Proof.Machine

/-- The fetch would read at or past the end of memory (R65, 60_exceptions.md R161). -/
def State.fetchFaults (s : State) : Bool := decide (memSize ≤ s.pc.toNat + 1)

/-- The instruction word at `pc`, the first byte the high byte (R65, 20_memory.md R43). -/
def State.fetchWord (s : State) : Word := joinBytes (s.byteAt s.pc.toNat) (s.byteAt (s.pc.toNat + 1))

/-- The first two statements of the cycle: `dirty` is cleared and the keys are latched (R64). -/
def State.beginCycle (s : State) : State := { s with dirty := false, key := s.keysIn }

/-- The fetch advances `pc` by 2 (R65). -/
def State.advancePc (s : State) : State := { s with pc := s.pc + 2#16 }

/-- Fetch and execute, the latched state given (R64, R65). -/
def fetchExec (s : State) : Result :=
  if s.fetchFaults then .next (s.raise .fetchOob) else exec (decodeWord s.fetchWord) s.advancePc

/-- `Cycle()` (R64): nothing in a halted block (60_exceptions.md R170). -/
def cycle (s : State) : Result := if s.halted then .next s else fetchExec s.beginCycle

/-- The ports as the host presents them for a step request. -/
def State.present (s : State) (keysIn : BitVec 16) (randIn : Byte) : State :=
  { s with keysIn := keysIn, randIn := randIn }

/-- The request of a host whose queue is empty: any number of ticks, then a step strobe with any keys and any
random byte, drawn anew each time (log entries 1 to 4). -/
def State.drawRequest (s : State) : State :=
  { (s.ticks (Config.ticksBefore s.hostTime)).present (Config.keysIn s.hostTime) (Config.randIn s.hostTime) with
    hostTime := s.hostTime + 1 }

/-- One request of the host, performed atomically (00_scope.md R5). -/
def perform (r : HostRequest) (s : State) : Result :=
  match r with
  | .step keysIn randIn => cycle (s.present keysIn randIn)
  | .tick => .next s.tick
  | .rst inputs => .next (s.resetWith inputs)

/-- The oldest request of the queue, or a free one when there is none. -/
def hostStep (s : State) : Result :=
  match s.hostQueue with
  | [] => cycle s.drawRequest
  | r :: rest => perform r { s with hostQueue := rest }

/-- The requests from the next step strobe on. -/
def fromNextStep : List HostRequest → List HostRequest
  | [] => []
  | .step k r :: rest => .step k r :: rest
  | .tick :: rest => fromNextStep rest
  | .rst _ :: rest => fromNextStep rest

/-- The bytes of an instruction word stored at `pc`, and the block set to fetch it next: not halted, and no
tick and no reset before the next step strobe (log entry 7). -/
def State.placeWord (s : State) (w : Word) : State :=
  { s with
    mem := Memory.writeList s.mem s.pc.toNat (wordBytes w)
    fault := .none
    hostQueue := fromNextStep s.hostQueue }

end Sys2Proof.Machine
end

