-- ==== Sys2Proof/Safety.lean ====
section
/-! DEFINITION. The terms claims are made in: the invariant of 10_state.md R26, what an instruction leaves
unchanged, which instructions reach which state (10_state.md R12, R13; 20_memory.md R40, R56), when the four
faults arise (60_exceptions.md R160 to R164), and the sprite bit of a pixel (43_display.md R131). -/

namespace Sys2Proof.Machine

/-! ## The invariant (10_state.md R26) -/

/-- What holds at every boundary between two steps: memory in canonical form, and the ranges of `I`, `pc`, `sp`
and the return addresses (R13, R14, R15). -/
structure Invariant (s : State) : Prop where
  mem : Memory.wf s.mem = true
  index : s.i.toNat ≤ 0xFFF
  counter : s.pc.toNat ≤ 0x10FE
  depth : s.sp.toNat ≤ 16
  slots : ∀ k (h : k < 16), s.stack[k].toNat ≤ 0x1000

/-! ## Frames: what a next state shares with the state before -/

/-- Every byte of memory reads as before. -/
def SameBytes (s t : State) : Prop := ∀ a, t.byteAt a = s.byteAt a

/-- Every byte outside the `len` bytes at `base` reads as before. -/
def SameBytesOutside (base len : Nat) (s t : State) : Prop :=
  ∀ a, a < base ∨ base + len ≤ a → t.byteAt a = s.byteAt a

/-- Every general register outside a set reads as before. -/
def SameVExcept (changed : Nibble → Prop) (s t : State) : Prop :=
  ∀ y, ¬ changed y → t.readV y = s.readV y

/-- Nothing but general registers differs. -/
def OnlyV (s t : State) : Prop := t = { s with v := t.v } ∧ SameBytes s t

/-- Nothing but `pc` differs. -/
def OnlyPc (s t : State) : Prop := t = { s with pc := t.pc } ∧ SameBytes s t

/-- Nothing but `I` differs. -/
def OnlyIndex (s t : State) : Prop := t = { s with i := t.i } ∧ SameBytes s t

/-- The outcome with its next state changed. -/
def mapNext (f : State → State) : Result → Result
  | .next t => .next (f t)
  | .fault r => .fault r
  | .refused r => .refused r

/-- `k` steps, up to the first stop. -/
def stepTimes : Nat → State → Result
  | 0, s => .next s
  | k + 1, s =>
    match step s with
    | .next t => stepTimes k t
    | .fault r => .fault r
    | .refused r => .refused r

/-! ## Which instructions reach which state -/

/-- The five reserved classes (30_encoding.md R67). -/
def isReserved : Instr → Bool
  | .reserved5 _ _ _ => true
  | .reserved8 _ _ _ => true
  | .reserved9 _ _ _ => true
  | .reservedE _ _ => true
  | .reservedF _ _ => true
  | _ => false

/-- `00E0`, `Dxyn`: the display instructions (20_memory.md R56). -/
def usesDisplay : Instr → Bool
  | .cls => true
  | .drw _ _ _ => true
  | _ => false

/-- `2nnn`, `00EE`: the call-stack instructions (R56). -/
def usesStack : Instr → Bool
  | .call _ => true
  | .ret => true
  | _ => false

/-- `Ex9E`, `ExA1`, `Fx0A`: the key instructions (R56). -/
def usesKeys : Instr → Bool
  | .skp _ => true
  | .sknp _ => true
  | .ldVxK _ => true
  | _ => false

/-- `Fx07`, `Fx15`: the delay-timer instructions (R56). -/
def usesDelay : Instr → Bool
  | .ldVxDt _ => true
  | .ldDtVx _ => true
  | _ => false

/-- `Fx18`: the sound-timer instruction (R56). -/
def usesSound : Instr → Bool
  | .ldStVx _ => true
  | _ => false

/-- `Cxnn`: the random instruction (R56). -/
def usesRandom : Instr → Bool
  | .rnd _ _ => true
  | _ => false

/-- `Fx33`, `Fx55`: the instructions that store to memory (20_memory.md R40). -/
def storesMemory : Instr → Bool
  | .ldB _ => true
  | .ldMemVx _ => true
  | _ => false

/-- `Dxyn`, `Fx33`, `Fx55`, `Fx65`: the instructions that access memory (R40). -/
def accessesMemory : Instr → Bool
  | .drw _ _ _ => true
  | .ldB _ => true
  | .ldMemVx _ => true
  | .ldVxMem _ => true
  | _ => false

/-- `Annn`, `Fx1E`, `Fx29`, `Fx55`: the instructions that write `I` (10_state.md R13). -/
def writesIndex : Instr → Bool
  | .ldI _ => true
  | .addI _ => true
  | .ldF _ => true
  | .ldMemVx _ => true
  | _ => false

/-- The instructions that write `V[15]` as a flag (10_state.md R12). -/
def writesFlag : Instr → Bool
  | .addReg _ _ => true
  | .subReg _ _ => true
  | .shr _ _ => true
  | .subn _ _ => true
  | .shl _ _ => true
  | .addI _ => true
  | .drw _ _ _ => true
  | _ => false

/-- `V[y]` is a destination register by its field (10_state.md R11, the writers). -/
def isDestination (y : Nibble) : Instr → Bool
  | .ldImm x _ => x == y
  | .addImm x _ => x == y
  | .ldReg x _ => x == y
  | .orReg x _ => x == y
  | .andReg x _ => x == y
  | .xorReg x _ => x == y
  | .addReg x _ => x == y
  | .subReg x _ => x == y
  | .shr x _ => x == y
  | .subn x _ => x == y
  | .shl x _ => x == y
  | .rnd x _ => x == y
  | .ldVxDt x => x == y
  | .ldVxK x => x == y
  | .ldVxMem x => decide (y.toNat ≤ x.toNat)
  | _ => false

/-! ## When a fault arises while an instruction executes (60_exceptions.md R162 to R164) -/

/-- The fault an instruction raises in a state, or `none`: `MEM_OOB`, `STACK_OVERFLOW`, `STACK_UNDERFLOW`. -/
def faultOf (i : Instr) (s : State) : FaultCode :=
  match i with
  | .drw _ _ n => if 0 < n.toNat ∧ 4096 ≤ s.i.toNat + n.toNat - 1 then .memOob else .none
  | .ldB _ => if 4096 ≤ s.i.toNat + 2 then .memOob else .none
  | .ldMemVx x => if 4096 ≤ s.i.toNat + x.toNat then .memOob else .none
  | .ldVxMem x => if 4096 ≤ s.i.toNat + x.toNat then .memOob else .none
  | .call _ => if s.sp.toNat = 16 then .stackOverflow else .none
  | .ret => if s.sp.toNat = 0 then .stackUnderflow else .none
  | _ => .none

/-! ## The sprite (43_display.md R131, R132) -/

/-- The sprite bit that falls on pixel `(r, c)` when `n` rows at `base` are drawn at column `ox`, row `oy`: off
where no row or no column of the sprite falls. -/
def spriteBit (s : State) (n ox oy r c : Nat) : Bool :=
  decide (oy ≤ r) && decide (r < oy + n) && decide (ox ≤ c) && decide (c < ox + 8) &&
    (s.byteAt (s.i.toNat + (r - oy))).getLsbD (7 - (c - ox))

end Sys2Proof.Machine
end

