-- ==== Sys2Proof/Certificates/Slice0/Obligations.lean ====
section
/-! DEFINITION. The statements for the provers, each from the numbered rules of spec/. In every statement about
`exec` the state is the one the fetch left: `pc` is the address of the instruction plus 2. -/

open Sys2Proof Sys2Proof.Machine

/-! ## Decoding and encoding (30_encoding.md) -/

/-- Words written out from the encodings of R62, R66 and R67: one to three of each of the eight families 0, 3, 8, B,
C, D, E, F. -/
def Obligations.SampleWordsDecode : Prop :=
  decode [0x00#8, 0xEE#8] = .instr .ret [] ∧ decode [0x01#8, 0x23#8] = .instr (.sys 0x123#12) [] ∧
  decode [0xB2#8, 0x34#8] = .instr (.jpV0 0x234#12) [] ∧ decode [0x3A#8, 0x2B#8] = .instr (.seImm 0xA#4 0x2B#8) [] ∧
  decode [0x81#8, 0x2E#8] = .instr (.shl 1#4 2#4) [] ∧ decode [0x81#8, 0x25#8] = .instr (.subReg 1#4 2#4) [] ∧
  decode [0xF4#8, 0x1E#8] = .instr (.addI 4#4) [] ∧ decode [0xF2#8, 0x55#8] = .instr (.ldMemVx 2#4) [] ∧
  decode [0xD1#8, 0x2F#8] = .instr (.drw 1#4 2#4 15#4) [] ∧ decode [0xC3#8, 0x0F#8] = .instr (.rnd 3#4 0x0F#8) [] ∧
  decode [0xE4#8, 0xA1#8] = .instr (.sknp 4#4) [] ∧ decode [0x81#8, 0x28#8] = .instr (.reserved8 1#4 2#4 8#4) []

/-- Decoding the encoding of a well-formed instruction gives it back, with every operand. -/
def Obligations.DecodeOfEncode : Prop :=
  ∀ (i : Instr) (rest : List Byte), i.wf = true → decode (encodeBytes i ++ rest) = .instr i rest

/-- Every two bytes are one well-formed instruction, whose encoding is those two bytes (R68, R69). -/
def Obligations.EncodeOfDecode : Prop :=
  ∀ (hi lo : Byte) (rest : List Byte),
    ∃ i, decode (hi :: lo :: rest) = .instr i rest ∧ i.wf = true ∧ encodeBytes i = [hi, lo]

/-- The reserved words are the five classes of R67, read on the word's digits, and each is a no-op (R89). That
`5xyN` and `9xyN` with N not 0 are among them is the spec's own decision D12 (log entry 17). -/
def Obligations.ReservedWordsAreNoOps : Prop :=
  (∀ w : Word, isReserved (decodeWord w) = true ↔
    (w.toNat / 4096 = 5 ∧ w.toNat % 16 ≠ 0) ∨
    (w.toNat / 4096 = 8 ∧ w.toNat % 16 ∈ [8, 9, 10, 11, 12, 13, 15]) ∨
    (w.toNat / 4096 = 9 ∧ w.toNat % 16 ≠ 0) ∨
    (w.toNat / 4096 = 14 ∧ w.toNat % 256 ∉ [0x9E, 0xA1]) ∨
    (w.toNat / 4096 = 15 ∧ w.toNat % 256 ∉ [0x07, 0x0A, 0x15, 0x18, 0x1E, 0x29, 0x33, 0x55, 0x65])) ∧
  (∀ (i : Instr) (s : State), isReserved i = true → exec i s = .next s)

/-- R80: every word of family 0 but `00E0` and `00EE` is SYS, and SYS does nothing, whatever `nnn`. -/
def Obligations.SysWordsAreNoOps : Prop :=
  (∀ w : Word, w.toNat / 4096 = 0 → w ≠ 0x00E0#16 → w ≠ 0x00EE#16 →
    decodeWord w = .sys (w.extractLsb' 0 12)) ∧
  (∀ (nnn : Addr) (s : State), exec (.sys nnn) s = .next s)

/-! ## The cycle, the faults, the timer tick (30_encoding.md, 60_exceptions.md) -/

/-- R64, R65: in an unhalted block with two bytes at `pc`, a step request clears `dirty`, latches the keys it
presents, advances `pc` by 2 and executes the instruction those bytes decode to. With an empty queue the host's
next request is free (log entry 1): any number of ticks, then a step with any keys and any random byte. -/
def Obligations.StepRunsTheDecodedInstruction : Prop :=
  ∀ (s : State) (i : Instr) (rest : List HostRequest) (k : BitVec 16) (r : Byte),
    s.fault = .none → s.pc.toNat + 1 < 4096 →
    decode [s.byteAt s.pc.toNat, s.byteAt (s.pc.toNat + 1)] = .instr i [] →
    (s.hostQueue = .step k r :: rest →
      step s = exec i { s with
        pc := s.pc + 2, dirty := false, key := k, keysIn := k, randIn := r, hostQueue := rest }) ∧
    (s.hostQueue = [] →
      step s = exec i { s with
        pc := s.pc + 2, dirty := false, key := Config.keysIn s.hostTime, keysIn := Config.keysIn s.hostTime,
        randIn := Config.randIn s.hostTime, hostTime := s.hostTime + 1,
        dt := countDownBy (Config.ticksBefore s.hostTime) s.dt,
        st := countDownBy (Config.ticksBefore s.hostTime) s.st })

/-- An empty queue stands for the requests it draws: the step is what the drawn ticks and the drawn step strobe
do one after the other (log entries 1, 2; every interleaving, 60_exceptions.md R173). -/
def Obligations.EmptyQueueDrawsTicksThenStep : Prop :=
  ∀ s : State, s.hostQueue = [] →
    step s = stepTimes (Config.ticksBefore s.hostTime + 1)
      { s with
        hostQueue := List.replicate (Config.ticksBefore s.hostTime) .tick ++
          [.step (Config.keysIn s.hostTime) (Config.randIn s.hostTime)]
        hostTime := s.hostTime + 1 }

/-- R161, R168: a fetch with `pc` at 4095 or above latches FETCH_OOB; `pc` is not advanced, nothing executes,
`dirty` is cleared and the keys are latched. The latch is the spec's decision D6, the fault D4. -/
def Obligations.FetchPastEndHalts : Prop :=
  ∀ (s : State) (k : BitVec 16) (r : Byte) (rest : List HostRequest),
    s.hostQueue = .step k r :: rest → s.fault = .none → 4095 ≤ s.pc.toNat →
    ∃ t, step s = .next t ∧ t.status = 1#3 ∧
      t = { s with fault := .fetchOob, dirty := false, key := k, keysIn := k, randIn := r, hostQueue := rest }

/-- R170: in a halted block a step strobe and a tick strobe change nothing; the ports and the queue are the
host's. The latch is the spec's decision D6. -/
def Obligations.HaltedBlockIsFrozen : Prop :=
  ∀ (s : State) (r : HostRequest) (rest : List HostRequest),
    s.fault ≠ .none → s.hostQueue = r :: rest → (∀ p, r ≠ .rst p) →
    ∃ t, step s = .next t ∧
      t = { s with keysIn := t.keysIn, randIn := t.randIn, hostQueue := rest } ∧ t.status ≠ 0#3

/-- R172: a tick decrements each timer above 0 and touches nothing else, and in a halted block nothing. -/
def Obligations.TickCountsDown : Prop :=
  ∀ (s : State) (rest : List HostRequest), s.hostQueue = .tick :: rest →
    ∃ t, step s = .next t ∧ t = { s with dt := t.dt, st := t.st, hostQueue := rest } ∧ SameBytes s t ∧
      (s.fault = .none → t.dt.toNat = s.dt.toNat - 1 ∧ t.st.toNat = s.st.toNat - 1) ∧
      (s.fault ≠ .none → t.dt = s.dt ∧ t.st = s.st)

/-- R172, the timer monotonicity property: after `k` ticks a timer that held `d` holds `d - k`, and never less
than 0. -/
def Obligations.TicksNeverUnderflow : Prop :=
  ∀ (k : Nat) (s : State) (rest : List HostRequest),
    s.fault = .none → s.hostQueue = List.replicate k .tick ++ rest →
    ∃ t, stepTimes k s = .next t ∧
      t.dt.toNat = s.dt.toNat - k ∧ t.st.toNat = s.st.toNat - k ∧
      t = { s with dt := t.dt, st := t.st, hostQueue := rest }

/-- R160 to R164, R169: with at most 16 entries on the stack every instruction answers a next state; its fault
latch is what R162 to R164 say, and an instruction that faults changes nothing but the latch. Precise faults and
the latch are the spec's decision D6. -/
def Obligations.FaultsArePrecise : Prop :=
  ∀ (i : Instr) (s : State), s.fault = .none → s.sp.toNat ≤ 16 →
    ∃ t, exec i s = .next t ∧ t.fault = faultOf i s ∧
      (faultOf i s ≠ .none → t = { s with fault := faultOf i s })

/-! ## The invariant and reset (10_state.md, 70_reset_and_hazards.md) -/

/-- The reset state meets the invariant. -/
def Obligations.InvariantAtReset : Prop := Invariant State.reset

/-- So does the state after `Reset()` for every font, image and strap setting. -/
def Obligations.InvariantAfterPowerOn : Prop := ∀ p : ResetInputs, Invariant (State.powerOn p)

/-- R26: every step keeps the invariant, from every state that meets it, whatever the host requests. -/
def Obligations.StepKeepsInvariant : Prop :=
  ∀ s t : State, Invariant s → step s = .next t → Invariant t

/-- R68, R168: from a state that meets the invariant every step answers a next state: no word and no request
stops the model. That a fault of the spec is a next state with the latch set is the model's form of the spec's
decision D6 (log entry 10). The invariant's bound on `sp` is what rules out the model's one stop, a call or a return
with `sp` above 16 (log entry 9). -/
def Obligations.StepNeverStops : Prop := ∀ s : State, Invariant s → ∃ t, step s = .next t

/-- R22: no request but `rst` changes a strap. -/
def Obligations.StrapsChangeOnlyAtReset : Prop :=
  ∀ s t : State, (∀ p rest, s.hostQueue ≠ .rst p :: rest) → step s = .next t →
    t.qShift = s.qShift ∧ t.qJump = s.qJump ∧ t.qIndex = s.qIndex

/-- R30, R41, R190: memory after reset, for every font and image: the font at 0x050, at most 3584 image bytes
from 0x200, 0 elsewhere. That the image copy is part of reset is the spec's decision D27. -/
def Obligations.ResetMemoryContents : Prop :=
  ∀ (p : ResetInputs) (a : Nat), a < 4096 →
    (State.powerOn p).byteAt a =
      if a < 0x050 then 0#8
      else if a < 0x0A0 then p.font.toList.getD (a - 0x050) 0#8
      else if a < 0x200 then 0#8
      else p.image.getD (a - 0x200) 0#8

/-- R30, R190: an `rst` request, in a halted block too, leaves every element at its reset value: registers,
timers, stack, display, keys and flags 0, `pc` 0x200 (the spec's decision D2), the latch clear, the straps as
presented. -/
def Obligations.ResetLeavesResetValues : Prop :=
  ∀ (s : State) (p : ResetInputs) (rest : List HostRequest), s.hostQueue = .rst p :: rest →
    ∃ t, step s = .next t ∧ (∀ x, t.readV x = 0#8) ∧ t.i = 0#16 ∧ t.pc = 0x200#16 ∧ t.sp = 0#5 ∧
      (∀ k (h : k < 16), t.stack[k] = 0#16) ∧ t.dt = 0#8 ∧ t.st = 0#8 ∧ t.soundActive = false ∧
      (∀ r c, t.displayOut r c = false) ∧ t.key = 0#16 ∧ t.dirty = false ∧ t.status = 0#3 ∧
      t.qShift = p.qShift ∧ t.qJump = p.qJump ∧ t.qIndex = p.qIndex ∧
      (∀ a, t.byteAt a = (State.powerOn p).byteAt a)

/-- The reset state is the state after `Reset()` with the empty image, unconnected straps and a font of the
default bytes (log entries 6, 7, 8: the model's choices). -/
def Obligations.ResetIsTheDefaultPowerOn : Prop :=
  ∀ p : ResetInputs, p.image = [] → p.font.toList = defaultFont →
    p.qShift = false → p.qJump = false → p.qIndex = false → State.powerOn p = State.reset

/-! ## Memory (20_memory.md) -/

/-- Equal memories are equal data: two canonical memories that read alike everywhere are the same list (the
model's own form, no rule of the spec). -/
def Obligations.CanonicalMemoryIsUnique : Prop :=
  ∀ m m' : List Host.Cell, Memory.wf m = true → Memory.wf m' = true →
    (∀ a, a < 4096 → Memory.read m a = Memory.read m' a) → m = m'

/-- R40: only `Fx33` and `Fx55` change memory; every other instruction leaves all of it. -/
def Obligations.OnlyStoresChangeMemory : Prop :=
  ∀ (i : Instr) (s t : State), storesMemory i = false → exec i s = .next t → t.mem = s.mem ∧ SameBytes s t

/-- R40: no instruction but `Dxyn`, `Fx33`, `Fx55`, `Fx65` reaches memory: with other memory it does the same to
everything else and leaves that memory. -/
def Obligations.OthersIgnoreMemory : Prop :=
  ∀ (i : Instr) (s : State) (m : List Host.Cell), accessesMemory i = false →
    exec i { s with mem := m } = mapNext (fun t => { t with mem := m }) (exec i s)

/-- R53: a store by `Fx55` over the next instruction is what the next fetch reads. -/
def Obligations.StoreIsSeenByTheNextFetch : Prop :=
  ∀ (x : Nibble) (s : State), Memory.wf s.mem = true → s.i.toNat + x.toNat < 4096 →
    s.i.toNat ≤ s.pc.toNat → s.pc.toNat + 1 ≤ s.i.toNat + x.toNat →
    ∃ t, exec (.ldMemVx x) s = .next t ∧ t.pc = s.pc ∧
      t.fetchWord = joinBytes (s.readV (BitVec.ofNat 4 (s.pc.toNat - s.i.toNat)))
        (s.readV (BitVec.ofNat 4 (s.pc.toNat + 1 - s.i.toNat)))

/-! ## Which instructions reach which state (20_memory.md R56, 10_state.md R12, R13) -/

/-- R56: only `00E0` and `Dxyn` reach the display; every other instruction neither reads nor writes it. -/
def Obligations.OthersIgnoreDisplay : Prop :=
  ∀ (i : Instr) (s : State) (d : Display), usesDisplay i = false →
    exec i { s with disp := d } = mapNext (fun t => { t with disp := d }) (exec i s)

/-- R15, R56: only `2nnn` and `00EE` reach the call stack. -/
def Obligations.OthersIgnoreStack : Prop :=
  ∀ (i : Instr) (s : State) (k : Vector Word 16) (d : BitVec 5), usesStack i = false →
    exec i { s with stack := k, sp := d } = mapNext (fun t => { t with stack := k, sp := d }) (exec i s)

/-- R56: only `Ex9E`, `ExA1`, `Fx0A` reach the keys, only `Fx07`, `Fx15` reach `DT`, only `Fx18` reaches `ST`,
only `Cxnn` reaches the random byte. -/
def Obligations.OthersIgnoreKeysTimersRandom : Prop :=
  ∀ (i : Instr) (s : State),
    (∀ k, usesKeys i = false → exec i { s with key := k } = mapNext (fun t => { t with key := k }) (exec i s)) ∧
    (∀ b, usesDelay i = false → exec i { s with dt := b } = mapNext (fun t => { t with dt := b }) (exec i s)) ∧
    (∀ b, usesSound i = false → exec i { s with st := b } = mapNext (fun t => { t with st := b }) (exec i s)) ∧
    (∀ b, usesRandom i = false →
      exec i { s with randIn := b } = mapNext (fun t => { t with randIn := b }) (exec i s))

/-- R13: only `Annn`, `Fx1E`, `Fx29`, `Fx55` write `I`, and what they write is at most 0xFFF. -/
def Obligations.IndexWritersAndRange : Prop :=
  ∀ (i : Instr) (s t : State), exec i s = .next t →
    (writesIndex i = false → t.i = s.i) ∧ (s.i.toNat ≤ 0xFFF → t.i.toNat ≤ 0xFFF)

/-- R11, R12: a general register changes only as a destination of the instruction or, for `V[15]`, as the flag
of an instruction that writes the flag. -/
def Obligations.RegistersChangeOnlyAsDestinationOrFlag : Prop :=
  ∀ (i : Instr) (s t : State) (y : Nibble), exec i s = .next t →
    isDestination y i = false → (y = 15#4 → writesFlag i = false) → t.readV y = s.readV y

/-- R19, R22, R27, R29: the key latch, the straps, the ports and the model's own fields (log entry 1) are no
destination of any instruction. -/
def Obligations.NoInstructionWritesKeysStrapsPorts : Prop :=
  ∀ (i : Instr) (s t : State), exec i s = .next t →
    t.key = s.key ∧ t.qShift = s.qShift ∧ t.qJump = s.qJump ∧ t.qIndex = s.qIndex ∧ t.keysIn = s.keysIn ∧
    t.randIn = s.randIn ∧ t.hostQueue = s.hostQueue ∧ t.hostTime = s.hostTime

/-! ## Control flow (40_control_flow.md) -/

/-- R82: `1nnn` sets `pc` to `nnn` and changes nothing else; after a jump to 0xFFF the next fetch faults. That no
target is aligned, masked or checked at the jump is the spec's decision D3 (log entry 21). -/
def Obligations.JumpSetsPc : Prop :=
  ∀ (nnn : Addr) (s : State), ∃ t, exec (.jp nnn) s = .next t ∧ t.pc.toNat = nnn.toNat ∧ OnlyPc s t ∧
    (nnn = 0xFFF#12 → t.fetchFaults = true)

/-- R88: `Bnnn` sets `pc` to `nnn + V[0]`, or under `Q_JUMP` to `nnn + V[x]` with `x` the top nibble of `nnn`,
with no mask and no wrap; a target of 4095 or more makes the next fetch fault. That the sum is neither masked nor
checked is the spec's decision D3 (log entry 21). -/
def Obligations.JumpWithOffset : Prop :=
  ∀ (nnn : Addr) (s : State), ∃ t, exec (.jpV0 nnn) s = .next t ∧ OnlyPc s t ∧
    t.pc.toNat = nnn.toNat +
      (if s.qJump = true then s.readV (BitVec.ofNat 4 (nnn.toNat / 256)) else s.readV 0#4).toNat ∧
    (4095 ≤ t.pc.toNat → t.fetchFaults = true)

/-- R84 to R87: the four compare-and-skip instructions, with their encodings, skip 2 bytes on equality or on
inequality and change nothing else. -/
def Obligations.CompareAndSkip : Prop :=
  ∀ (x y : Nibble) (nn : Byte) (s : State),
    (encode (.seImm x nn) = 0x3#4 ++ x ++ nn ∧ encode (.sneImm x nn) = 0x4#4 ++ x ++ nn ∧
      encode (.seReg x y) = 0x5#4 ++ x ++ y ++ 0x0#4 ∧ encode (.sneReg x y) = 0x9#4 ++ x ++ y ++ 0x0#4) ∧
    (∃ t, exec (.seImm x nn) s = .next t ∧ OnlyPc s t ∧
      t.pc = if s.readV x = nn then s.pc + 2 else s.pc) ∧
    (∃ t, exec (.sneImm x nn) s = .next t ∧ OnlyPc s t ∧
      t.pc = if s.readV x = nn then s.pc else s.pc + 2) ∧
    (∃ t, exec (.seReg x y) s = .next t ∧ OnlyPc s t ∧
      t.pc = if s.readV x = s.readV y then s.pc + 2 else s.pc) ∧
    (∃ t, exec (.sneReg x y) s = .next t ∧ OnlyPc s t ∧
      t.pc = if s.readV x = s.readV y then s.pc else s.pc + 2)

/-- R83: with fewer than 16 entries `2nnn` pushes the advanced `pc` and jumps; with 16 it latches
STACK_OVERFLOW and pushes nothing. The latch is the spec's decision D6. -/
def Obligations.CallPushesAndJumps : Prop :=
  ∀ (nnn : Addr) (s : State),
    (s.sp.toNat < 16 → ∃ t, exec (.call nnn) s = .next t ∧ t.pc.toNat = nnn.toNat ∧
      t.sp.toNat = s.sp.toNat + 1 ∧ t.stack[s.sp.toNat]? = some s.pc ∧
      (∀ k, k ≠ s.sp.toNat → t.stack[k]? = s.stack[k]?) ∧
      t = { s with pc := t.pc, sp := t.sp, stack := t.stack } ∧ SameBytes s t) ∧
    (s.sp.toNat = 16 → ∃ t, exec (.call nnn) s = .next t ∧ t = { s with fault := .stackOverflow } ∧
      t.status = 3#3)

/-- R81: with 1 to 16 entries `00EE` pops `pc`, the slot keeps its value; with none it latches
STACK_UNDERFLOW and `sp` and `pc` stay. The latch is the spec's decision D6. -/
def Obligations.ReturnPops : Prop :=
  ∀ s : State,
    (0 < s.sp.toNat → s.sp.toNat ≤ 16 → ∃ t, exec .ret s = .next t ∧ t.sp.toNat + 1 = s.sp.toNat ∧
      s.stack[t.sp.toNat]? = some t.pc ∧ t = { s with pc := t.pc, sp := t.sp } ∧ SameBytes s t) ∧
    (s.sp.toNat = 0 → ∃ t, exec .ret s = .next t ∧ t = { s with fault := .stackUnderflow } ∧ t.status = 4#3)

/-- R81, R83, the stack round trip: a call and then a return, whatever `pc` has become, give back the `pc` after
the call and the depth before it. -/
def Obligations.CallThenReturn : Prop :=
  ∀ (nnn : Addr) (p : Word) (s : State), s.sp.toNat < 16 →
    ∃ t u, exec (.call nnn) s = .next t ∧ exec .ret { t with pc := p } = .next u ∧
      u.pc = s.pc ∧ u.sp = s.sp

/-! ## Loads, arithmetic, logic (41_arith_logic.md) -/

/-- R100, R101, R102: `6xnn` loads the literal, `7xnn` adds it modulo 256, `8xy0` copies; no flag. With their
encodings. -/
def Obligations.LoadsAndAddImmediate : Prop :=
  ∀ (x y : Nibble) (nn : Byte) (s : State),
    (encode (.ldImm x nn) = 0x6#4 ++ x ++ nn ∧ encode (.addImm x nn) = 0x7#4 ++ x ++ nn ∧
      encode (.ldReg x y) = 0x8#4 ++ x ++ y ++ 0x0#4) ∧
    (∃ t, exec (.ldImm x nn) s = .next t ∧ t.readV x = nn ∧ SameVExcept (· = x) s t ∧ OnlyV s t) ∧
    (∃ t, exec (.addImm x nn) s = .next t ∧ (t.readV x).toNat = ((s.readV x).toNat + nn.toNat) % 256 ∧
      SameVExcept (· = x) s t ∧ OnlyV s t) ∧
    (∃ t, exec (.ldReg x y) s = .next t ∧ t.readV x = s.readV y ∧ SameVExcept (· = x) s t ∧ OnlyV s t)

/-- R103, R104, R105: OR, AND, XOR bit by bit. That `V[15]` is not touched is the spec's decision D26 (log
entry 20). -/
def Obligations.LogicBitwise : Prop :=
  ∀ (x y : Nibble) (s : State),
    (∃ t, exec (.orReg x y) s = .next t ∧ SameVExcept (· = x) s t ∧ OnlyV s t ∧
      ∀ j, (t.readV x).getLsbD j = ((s.readV x).getLsbD j || (s.readV y).getLsbD j)) ∧
    (∃ t, exec (.andReg x y) s = .next t ∧ SameVExcept (· = x) s t ∧ OnlyV s t ∧
      ∀ j, (t.readV x).getLsbD j = ((s.readV x).getLsbD j && (s.readV y).getLsbD j)) ∧
    (∃ t, exec (.xorReg x y) s = .next t ∧ SameVExcept (· = x) s t ∧ OnlyV s t ∧
      ∀ j, (t.readV x).getLsbD j = ((s.readV x).getLsbD j ^^ (s.readV y).getLsbD j))

/-- R106: `8xy4` adds modulo 256 and sets `V[15]` to the carry, for every `x` and `y`. With `x` = 15 the flag is
what stays, by the order of the writes (the spec's decision D7, log entry 13). -/
def Obligations.AddWithCarry : Prop :=
  ∀ (x y : Nibble) (s : State), ∃ t, exec (.addReg x y) s = .next t ∧
    (x ≠ 15#4 → (t.readV x).toNat = ((s.readV x).toNat + (s.readV y).toNat) % 256) ∧
    t.readV 15#4 = (if 255 < (s.readV x).toNat + (s.readV y).toNat then 1#8 else 0#8) ∧
    SameVExcept (fun z => z = x ∨ z = 15#4) s t ∧ OnlyV s t

/-- R107, R109: `8xy5` and `8xy7` subtract modulo 256 and set `V[15]` to 1 when there is no borrow, for every `x`
and `y`. With `x` = 15 the flag is what stays (the spec's decision D7, log entry 13). -/
def Obligations.SubtractNoBorrow : Prop :=
  ∀ (x y : Nibble) (s : State),
    (∃ t, exec (.subReg x y) s = .next t ∧
      (x ≠ 15#4 → (t.readV x).toNat = (256 + (s.readV x).toNat - (s.readV y).toNat) % 256) ∧
      t.readV 15#4 = (if (s.readV y).toNat ≤ (s.readV x).toNat then 1#8 else 0#8) ∧
      SameVExcept (fun z => z = x ∨ z = 15#4) s t ∧ OnlyV s t) ∧
    (∃ t, exec (.subn x y) s = .next t ∧
      (x ≠ 15#4 → (t.readV x).toNat = (256 + (s.readV y).toNat - (s.readV x).toNat) % 256) ∧
      t.readV 15#4 = (if (s.readV x).toNat ≤ (s.readV y).toNat then 1#8 else 0#8) ∧
      SameVExcept (fun z => z = x ∨ z = 15#4) s t ∧ OnlyV s t)

/-- R108: `8xy6` halves `V[y]` (under `Q_SHIFT`) or `V[x]` into `V[x]` and sets `V[15]` to the bit shifted out.
With `x` = 15 `V[15]` ends as 0 (the spec's decision D7, log entry 13). -/
def Obligations.ShiftRight : Prop :=
  ∀ (x y : Nibble) (s : State), ∃ t, exec (.shr x y) s = .next t ∧
    (x ≠ 15#4 →
      (t.readV x).toNat = (if s.qShift = true then s.readV y else s.readV x).toNat / 2 ∧
      (t.readV 15#4).toNat = (if s.qShift = true then s.readV y else s.readV x).toNat % 2) ∧
    (x = 15#4 → t.readV 15#4 = 0#8) ∧
    SameVExcept (fun z => z = x ∨ z = 15#4) s t ∧ OnlyV s t

/-- R110: `8xyE` doubles `V[y]` (under `Q_SHIFT`) or `V[x]` modulo 256 into `V[x]` and sets `V[15]` to the bit
shifted out. With `x` = 15 `V[15]` ends as 0 or 2 (the spec's decision D7, log entry 13). -/
def Obligations.ShiftLeft : Prop :=
  ∀ (x y : Nibble) (s : State), ∃ t, exec (.shl x y) s = .next t ∧
    (x ≠ 15#4 →
      (t.readV x).toNat = (if s.qShift = true then s.readV y else s.readV x).toNat * 2 % 256 ∧
      (t.readV 15#4).toNat = (if s.qShift = true then s.readV y else s.readV x).toNat / 128) ∧
    (x = 15#4 →
      t.readV 15#4 = if (if s.qShift = true then s.readV y else s.readV x).toNat < 128 then 0#8 else 2#8) ∧
    SameVExcept (fun z => z = x ∨ z = 15#4) s t ∧ OnlyV s t

/-! ## Index register and memory transfer (42_index_memory.md) -/

/-- R120: `Annn`, with its encoding, loads the literal into `I` and changes nothing else. -/
def Obligations.LoadIndex : Prop :=
  ∀ (nnn : Addr) (s : State), encode (.ldI nnn) = 0xA#4 ++ nnn ∧ ∃ t, exec (.ldI nnn) s = .next t ∧ t.i.toNat = nnn.toNat ∧ OnlyIndex s t

/-- R121: `Fx1E` adds `V[x]` to `I` modulo 4096 and sets `V[15]` to 1 on overflow; without overflow `V[15]` is
what the open parameter says (the spec's D8, log entry 5; the statement holds for both values). -/
def Obligations.AddToIndex : Prop :=
  ∀ (x : Nibble) (s : State), ∃ t, exec (.addI x) s = .next t ∧
    t.i.toNat = (s.i.toNat + (s.readV x).toNat) % 4096 ∧
    (4096 ≤ s.i.toNat + (s.readV x).toNat → t.readV 15#4 = 1#8) ∧
    (s.i.toNat + (s.readV x).toNat < 4096 → Config.fx1eVfElse = .clear → t.readV 15#4 = 0#8) ∧
    (s.i.toNat + (s.readV x).toNat < 4096 → Config.fx1eVfElse = .keep → t.readV 15#4 = s.readV 15#4) ∧
    SameVExcept (· = 15#4) s t ∧ t = { s with v := t.v, i := t.i } ∧ SameBytes s t

/-- R122: `Fx29` sets `I` to 0x050 + 5 * V[x], the address of the glyph of a digit. That a value above 15 is not
reduced is the spec's decision D22 (log entry 19). -/
def Obligations.GlyphAddress : Prop :=
  ∀ (x : Nibble) (s : State), ∃ t, exec (.ldF x) s = .next t ∧
    t.i.toNat = 0x050 + 5 * (s.readV x).toNat ∧ OnlyIndex s t

/-- R123: with three bytes at `I` inside memory `Fx33` stores the decimal digits of `V[x]`, hundreds first, and
nothing else; else it latches MEM_OOB and stores nothing. The latch is the spec's decision D6. -/
def Obligations.StoreDecimalDigits : Prop :=
  ∀ (x : Nibble) (s : State),
    (Memory.wf s.mem = true → s.i.toNat + 2 < 4096 → ∃ t, exec (.ldB x) s = .next t ∧
      (s.readV x).toNat = 100 * (t.byteAt s.i.toNat).toNat + 10 * (t.byteAt (s.i.toNat + 1)).toNat +
        (t.byteAt (s.i.toNat + 2)).toNat ∧
      (t.byteAt (s.i.toNat + 1)).toNat ≤ 9 ∧ (t.byteAt (s.i.toNat + 2)).toNat ≤ 9) ∧
    (s.i.toNat + 2 < 4096 → ∃ t, exec (.ldB x) s = .next t ∧
      t = { s with mem := t.mem } ∧ SameBytesOutside s.i.toNat 3 s t) ∧
    (4096 ≤ s.i.toNat + 2 → ∃ t, exec (.ldB x) s = .next t ∧ t = { s with fault := .memOob } ∧ t.status = 2#3)

/-- R124: with x + 1 bytes at `I` inside memory `Fx55` stores `V[0]` to `V[x]` at ascending addresses, and
nothing else; under `Q_INDEX` `I` advances by `x` (the spec's decision D21, log entry 18); else it latches
MEM_OOB (D6). -/
def Obligations.StoreRegisters : Prop :=
  ∀ (x : Nibble) (s : State),
    (Memory.wf s.mem = true → s.i.toNat + x.toNat < 4096 → ∃ t, exec (.ldMemVx x) s = .next t ∧
      ∀ y : Nibble, y.toNat ≤ x.toNat → t.byteAt (s.i.toNat + y.toNat) = s.readV y) ∧
    (s.i.toNat + x.toNat < 4096 → ∃ t, exec (.ldMemVx x) s = .next t ∧
      t = { s with mem := t.mem, i := t.i } ∧ SameBytesOutside s.i.toNat (x.toNat + 1) s t ∧
      t.i.toNat = s.i.toNat + (if s.qIndex = true then x.toNat else 0)) ∧
    (4096 ≤ s.i.toNat + x.toNat → ∃ t, exec (.ldMemVx x) s = .next t ∧ t = { s with fault := .memOob } ∧
      t.status = 2#3)

/-- R125: with x + 1 bytes at `I` inside memory `Fx65` loads them into `V[0]` to `V[x]`; `I` and the registers
above `x` stay (D21, log entry 18); else it latches MEM_OOB (D6). -/
def Obligations.LoadRegisters : Prop :=
  ∀ (x : Nibble) (s : State),
    (s.i.toNat + x.toNat < 4096 → ∃ t, exec (.ldVxMem x) s = .next t ∧
      (∀ y : Nibble, y.toNat ≤ x.toNat → t.readV y = s.byteAt (s.i.toNat + y.toNat)) ∧
      SameVExcept (fun y => y.toNat ≤ x.toNat) s t ∧ OnlyV s t) ∧
    (4096 ≤ s.i.toNat + x.toNat → ∃ t, exec (.ldVxMem x) s = .next t ∧ t = { s with fault := .memOob } ∧
      t.status = 2#3)

/-- R124, R125: what `Fx55` stores `Fx65` loads back, over any registers in between and from the same `I`. -/
def Obligations.StoreThenLoadRestores : Prop :=
  ∀ (x : Nibble) (s : State) (w : Vector Byte 16), Memory.wf s.mem = true → s.i.toNat + x.toNat < 4096 →
    ∃ t u, exec (.ldMemVx x) s = .next t ∧ exec (.ldVxMem x) { t with v := w, i := s.i } = .next u ∧
      ∀ y : Nibble, y.toNat ≤ x.toNat → u.readV y = s.readV y

/-! ## Display (43_display.md) -/

/-- R130: `00E0` turns every pixel off and sets `dirty`; `V[15]`, `I` and memory are untouched. -/
def Obligations.ClearDisplay : Prop :=
  encode .cls = 0x00E0#16 ∧ ∀ s : State, ∃ t, exec .cls s = .next t ∧ (∀ r c, t.displayOut r c = false) ∧ t.displayDirty = true ∧
    (∀ y, t.readV y = s.readV y) ∧ t = { s with disp := t.disp, dirty := t.dirty } ∧ SameBytes s t

/-- R131, R132: `Dxyn` with its rows inside memory XORs the sprite bit of every pixel into it, with the origin
reduced modulo 64 and 32 and the rest clipped; `V[15]` is 1 exactly when a pixel went from on to off, else 0;
`dirty` is set when n > 0. That the operands are read before the flag is cleared is the spec's decision D9 (log
entry 14), that clipped rows count for the range D10 (log entry 15). -/
def Obligations.DrawXorsTheClippedSprite : Prop :=
  ∀ (x y n : Nibble) (s : State), (0 < n.toNat → s.i.toNat + n.toNat - 1 < 4096) →
    ∃ t, exec (.drw x y n) s = .next t ∧
      (∀ r c, r < 32 → c < 64 → pixel t.disp r c =
        (pixel s.disp r c ^^ spriteBit s n.toNat ((s.readV x).toNat % 64) ((s.readV y).toNat % 32) r c)) ∧
      (t.readV 15#4 = 1#8 ↔ ∃ r c, r < 32 ∧ c < 64 ∧ pixel s.disp r c = true ∧ pixel t.disp r c = false) ∧
      (t.readV 15#4 = 0#8 ∨ t.readV 15#4 = 1#8) ∧
      t.dirty = (s.dirty || decide (0 < n.toNat)) ∧
      SameVExcept (· = 15#4) s t ∧ t = { s with v := t.v, disp := t.disp, dirty := t.dirty } ∧ SameBytes s t

/-- R131, R162: `Dxyn` with n > 0 rows that reach address 4096 latches MEM_OOB and draws nothing, also when the
rows beyond are clipped (the spec's decision D10, log entry 15; the latch D6). -/
def Obligations.DrawOutOfRangeFaults : Prop :=
  ∀ (x y n : Nibble) (s : State), 0 < n.toNat → 4096 ≤ s.i.toNat + n.toNat - 1 →
    ∃ t, exec (.drw x y n) s = .next t ∧ t = { s with fault := .memOob } ∧ t.status = 2#3

/-- R131: drawing the same sprite at the same place twice restores the display. The second draw sets `V[15]` to 1
exactly when the sprite has a 1 bit on a pixel of the grid that was off before both: R131 says "a 1 bit at an
unclipped position", which its own pseudocode gives only where the picture was off (log entry 27). The registers are
put back in between, since with `x` or `y` = 15 the second draw would read the first one's flag. -/
def Obligations.DrawTwiceRestores : Prop :=
  ∀ (x y n : Nibble) (s : State), (0 < n.toNat → s.i.toNat + n.toNat - 1 < 4096) →
    ∃ t u, exec (.drw x y n) s = .next t ∧ exec (.drw x y n) { t with v := s.v } = .next u ∧
      (∀ r c, r < 32 → c < 64 → pixel u.disp r c = pixel s.disp r c) ∧
      (u.readV 15#4 = 1#8 ↔ ∃ r c, r < 32 ∧ c < 64 ∧ pixel s.disp r c = false ∧
        spriteBit s n.toNat ((s.readV x).toNat % 64) ((s.readV y).toNat % 32) r c = true)

/-! ## Timers, random, keys (44_timers_random.md, 45_input.md) -/

/-- R140, R141: `Fx07` reads `DT`, `Fx15` writes `DT`, and nothing else changes. With their encodings. -/
def Obligations.DelayTimerTransfers : Prop :=
  ∀ (x : Nibble) (s : State),
    (encode (.ldVxDt x) = 0xF#4 ++ x ++ 0x07#8 ∧ encode (.ldDtVx x) = 0xF#4 ++ x ++ 0x15#8) ∧
    (∃ t, exec (.ldVxDt x) s = .next t ∧ t.readV x = s.dt ∧ SameVExcept (· = x) s t ∧ OnlyV s t) ∧
    (∃ t, exec (.ldDtVx x) s = .next t ∧ t.dt = s.readV x ∧ (∀ y, t.readV y = s.readV y) ∧
      t = { s with dt := t.dt } ∧ SameBytes s t)

/-- R142, R174: `Fx18` writes `ST`, and the tone is on exactly when the value is not 0. That `sound_active` follows
`ST` at every boundary is the spec's decision D13 (log entry 24). -/
def Obligations.SoundTimerTransfer : Prop :=
  ∀ (x : Nibble) (s : State), ∃ t, exec (.ldStVx x) s = .next t ∧ t.st = s.readV x ∧
    (t.soundActive = true ↔ s.readV x ≠ 0#8) ∧ (∀ y, t.readV y = s.readV y) ∧
    t = { s with st := t.st } ∧ SameBytes s t

/-- R143: `Cxnn` loads the byte on `rand_in` masked with `nn`, whatever the byte; a bit that is 0 in `nn` is 0. That the
source is the port `rand_in`, sampled when `Cxnn` executes, is the spec's decision D17 (log entry 26). -/
def Obligations.RandomIsMasked : Prop :=
  ∀ (x : Nibble) (nn : Byte) (s : State), ∃ t, exec (.rnd x nn) s = .next t ∧
    (∀ j, (t.readV x).getLsbD j = (s.randIn.getLsbD j && nn.getLsbD j)) ∧
    SameVExcept (· = x) s t ∧ OnlyV s t

/-- R150, R151: `Ex9E` skips when the key named by `V[x]` is pressed, `ExA1` when it is not. That a value above
15 names no key, so is not pressed, is the spec's decision D11 (log entry 16). -/
def Obligations.KeySkips : Prop :=
  ∀ (x : Nibble) (s : State),
    (∃ t, exec (.skp x) s = .next t ∧ OnlyPc s t ∧
      t.pc = if (s.readV x).toNat ≤ 15 ∧ s.key.getLsbD (s.readV x).toNat = true then s.pc + 2 else s.pc) ∧
    (∃ t, exec (.sknp x) s = .next t ∧ OnlyPc s t ∧
      t.pc = if (s.readV x).toNat ≤ 15 ∧ s.key.getLsbD (s.readV x).toNat = true then s.pc else s.pc + 2)

/-- R152: `Fx0A` with no key down goes back to its own address and leaves `V[x]`; with a key down it loads the
smallest number of a key that is down. That it does not wait for a release is the spec's decision D25 (log
entry 22). -/
def Obligations.KeyWait : Prop :=
  ∀ (x : Nibble) (s : State), ∃ t, exec (.ldVxK x) s = .next t ∧
    ((∀ k, k < 16 → s.key.getLsbD k = false) → t.pc = s.pc - 2 ∧ t.readV x = s.readV x) ∧
    (∀ k, k < 16 → s.key.getLsbD k = true → (∀ j, j < k → s.key.getLsbD j = false) →
      t.pc = s.pc ∧ (t.readV x).toNat = k) ∧
    SameVExcept (· = x) s t ∧ t = { s with v := t.v, pc := t.pc } ∧ SameBytes s t
end

