-- ==== Sys2Proof/Laws/Memory.lean ====
section
/-! SUPPORT. Memory: every operation keeps the canonical form; a read after a write. -/

namespace Sys2Proof.Machine

theorem wfFrom_cons {low : Nat} {c : Host.Cell} {rest : List Host.Cell} :
    Memory.wfFrom low (c :: rest) = true ↔
      low ≤ c.1 ∧ c.1 < memSize ∧ c.2 ≠ Memory.blank c.1 ∧ Memory.wfFrom (c.1 + 1) rest = true := by
  simp [Memory.wfFrom, and_assoc]

theorem wfFrom_mono {low low' : Nat} {m : List Host.Cell} (h : low' ≤ low) (hm : Memory.wfFrom low m = true) :
    Memory.wfFrom low' m = true := by
  cases m with
  | nil => rfl
  | cons c rest =>
    obtain ⟨h1, h2⟩ := wfFrom_cons.mp hm
    exact wfFrom_cons.mpr ⟨h.trans h1, h2⟩

/-- An address below every cell reads as blank. -/
theorem read_below {a low : Nat} {m : List Host.Cell} (hm : Memory.wfFrom low m = true) (h : a < low) :
    Memory.read m a = Memory.blank a := by
  induction m generalizing low with
  | nil => rfl
  | cons c rest ih =>
    obtain ⟨h1, -, -, h4⟩ := wfFrom_cons.mp hm
    rw [Memory.read, if_neg (by omega)]
    exact ih h4 (by omega)

theorem put_wf {low a : Nat} {b : Byte} {rest : List Host.Cell} (hl : low ≤ a) (ha : a < memSize)
    (hr : Memory.wfFrom (a + 1) rest = true) : Memory.wfFrom low (Memory.put a b rest) = true := by
  unfold Memory.put
  split
  · exact wfFrom_mono (by omega) hr
  · exact wfFrom_cons.mpr ⟨hl, ha, ‹_›, hr⟩

theorem read_put_same {a : Nat} {b : Byte} {rest : List Host.Cell} (hr : Memory.wfFrom (a + 1) rest = true) :
    Memory.read (Memory.put a b rest) a = b := by
  unfold Memory.put
  split
  · rw [read_below hr (by omega)]; exact Eq.symm ‹_›
  · simp [Memory.read]

theorem read_put_other {a c : Nat} {b : Byte} {rest : List Host.Cell} (h : c ≠ a) :
    Memory.read (Memory.put a b rest) c = Memory.read rest c := by
  unfold Memory.put
  split
  · rfl
  · simp [Memory.read, Ne.symm h]

theorem write_wfFrom {low a : Nat} {b : Byte} {m : List Host.Cell} (hl : low ≤ a) (ha : a < memSize)
    (hm : Memory.wfFrom low m = true) : Memory.wfFrom low (Memory.write m a b) = true := by
  induction m generalizing low with
  | nil => exact put_wf hl ha rfl
  | cons c rest ih =>
    obtain ⟨h1, h2, h3, h4⟩ := wfFrom_cons.mp hm
    unfold Memory.write
    split
    · exact put_wf hl ha (wfFrom_cons.mpr ⟨by omega, h2, h3, h4⟩)
    · split
      · subst a; exact put_wf hl ha h4
      · exact wfFrom_cons.mpr ⟨h1, h2, h3, ih (by omega) h4⟩

/-- A write of an address of the space keeps the canonical form. -/
theorem write_keeps_wf {a : Nat} {b : Byte} {m : List Host.Cell} (ha : a < memSize) (hm : Memory.wf m = true) :
    Memory.wf (Memory.write m a b) = true := write_wfFrom (Nat.zero_le a) ha hm

theorem read_write_from {low a : Nat} {b : Byte} {m : List Host.Cell} (hl : low ≤ a)
    (hm : Memory.wfFrom low m = true) : Memory.read (Memory.write m a b) a = b := by
  induction m generalizing low with
  | nil => exact read_put_same rfl
  | cons c rest ih =>
    obtain ⟨h1, h2, h3, h4⟩ := wfFrom_cons.mp hm
    unfold Memory.write
    split
    · exact read_put_same (wfFrom_cons.mpr ⟨by omega, h2, h3, h4⟩)
    · split
      · subst a; exact read_put_same h4
      · rw [Memory.read, if_neg ‹_›]; exact ih (by omega) h4

/-- A read gives the byte last written. -/
theorem read_write_same {a : Nat} {b : Byte} {m : List Host.Cell} (hm : Memory.wf m = true) :
    Memory.read (Memory.write m a b) a = b := read_write_from (Nat.zero_le a) hm

/-- A write leaves every other byte alone, whatever the form of the memory. -/
theorem read_write_other {a c : Nat} {b : Byte} {m : List Host.Cell} (h : c ≠ a) :
    Memory.read (Memory.write m a b) c = Memory.read m c := by
  induction m with
  | nil => exact read_put_other h
  | cons d rest ih =>
    unfold Memory.write
    split
    · exact read_put_other h
    · split
      · rw [read_put_other h]
        subst a
        rw [Memory.read, if_neg (Ne.symm h)]
      · simp only [Memory.read, ih]

/-- Storing bytes inside the space keeps the canonical form. -/
theorem writeList_keeps_wf {bs : List Byte} {base : Nat} {m : List Host.Cell} (h : base + bs.length ≤ memSize)
    (hm : Memory.wf m = true) : Memory.wf (Memory.writeList m base bs) = true := by
  induction bs generalizing base m with
  | nil => exact hm
  | cons b rest ih =>
    rw [List.length_cons] at h
    exact ih (by omega) (write_keeps_wf (by omega) hm)

/-- Storing bytes leaves every byte outside their range alone. -/
theorem read_writeList_other {bs : List Byte} {base a : Nat} {m : List Host.Cell}
    (h : a < base ∨ base + bs.length ≤ a) : Memory.read (Memory.writeList m base bs) a = Memory.read m a := by
  induction bs generalizing base m with
  | nil => rfl
  | cons b rest ih =>
    rw [List.length_cons] at h
    rw [Memory.writeList, ih (by omega), read_write_other (by omega)]

/-- Each stored byte is read back. -/
theorem read_writeList_at {bs : List Byte} {base k : Nat} {m : List Host.Cell} (hk : k < bs.length)
    (h : base + bs.length ≤ memSize) (hm : Memory.wf m = true) :
    Memory.read (Memory.writeList m base bs) (base + k) = bs[k] := by
  induction bs generalizing base k m with
  | nil => simp at hk
  | cons b rest ih =>
    rw [List.length_cons] at h hk
    cases k with
    | zero =>
      rw [Memory.writeList, read_writeList_other (by omega)]
      simpa using read_write_same hm
    | succ k =>
      have := ih (base := base + 1) (k := k) (m := Memory.write m base b) (by omega) (by omega)
        (write_keeps_wf (by omega) hm)
      rw [Memory.writeList, show base + (k + 1) = base + 1 + k by omega, this]
      rfl

/-- The memory of the reset state is canonical. -/
theorem wf_nil : Memory.wf [] = true := rfl

end Sys2Proof.Machine
end

