-- ==== Sys2Proof/Laws/State.lean ====
section
/-! SUPPORT. One lemma per field per update of the state, true by rfl, so that no later proof unfolds a record
update. -/

namespace Sys2Proof.Machine

@[simp] theorem State.writeV_v (s : State) (x : Nibble) (b : Byte) : (s.writeV x b).v = s.v.set x.toNat b := rfl
@[simp] theorem State.writeV_i (s : State) (x : Nibble) (b : Byte) : (s.writeV x b).i = s.i := rfl
@[simp] theorem State.writeV_pc (s : State) (x : Nibble) (b : Byte) : (s.writeV x b).pc = s.pc := rfl
@[simp] theorem State.writeV_stack (s : State) (x : Nibble) (b : Byte) : (s.writeV x b).stack = s.stack := rfl
@[simp] theorem State.writeV_sp (s : State) (x : Nibble) (b : Byte) : (s.writeV x b).sp = s.sp := rfl
@[simp] theorem State.writeV_dt (s : State) (x : Nibble) (b : Byte) : (s.writeV x b).dt = s.dt := rfl
@[simp] theorem State.writeV_st (s : State) (x : Nibble) (b : Byte) : (s.writeV x b).st = s.st := rfl
@[simp] theorem State.writeV_disp (s : State) (x : Nibble) (b : Byte) : (s.writeV x b).disp = s.disp := rfl
@[simp] theorem State.writeV_key (s : State) (x : Nibble) (b : Byte) : (s.writeV x b).key = s.key := rfl
@[simp] theorem State.writeV_dirty (s : State) (x : Nibble) (b : Byte) : (s.writeV x b).dirty = s.dirty := rfl
@[simp] theorem State.writeV_qShift (s : State) (x : Nibble) (b : Byte) : (s.writeV x b).qShift = s.qShift := rfl
@[simp] theorem State.writeV_qJump (s : State) (x : Nibble) (b : Byte) : (s.writeV x b).qJump = s.qJump := rfl
@[simp] theorem State.writeV_qIndex (s : State) (x : Nibble) (b : Byte) : (s.writeV x b).qIndex = s.qIndex := rfl
@[simp] theorem State.writeV_fault (s : State) (x : Nibble) (b : Byte) : (s.writeV x b).fault = s.fault := rfl
@[simp] theorem State.writeV_mem (s : State) (x : Nibble) (b : Byte) : (s.writeV x b).mem = s.mem := rfl
@[simp] theorem State.writeV_keysIn (s : State) (x : Nibble) (b : Byte) : (s.writeV x b).keysIn = s.keysIn := rfl
@[simp] theorem State.writeV_randIn (s : State) (x : Nibble) (b : Byte) : (s.writeV x b).randIn = s.randIn := rfl
@[simp] theorem State.writeV_hostQueue (s : State) (x : Nibble) (b : Byte) : (s.writeV x b).hostQueue = s.hostQueue := rfl
@[simp] theorem State.writeV_hostTime (s : State) (x : Nibble) (b : Byte) : (s.writeV x b).hostTime = s.hostTime := rfl

@[simp] theorem State.writeFlag_v (s : State) (b : Byte) : (s.writeFlag b).v = s.v.set 15 b := rfl
@[simp] theorem State.writeFlag_i (s : State) (b : Byte) : (s.writeFlag b).i = s.i := rfl
@[simp] theorem State.writeFlag_pc (s : State) (b : Byte) : (s.writeFlag b).pc = s.pc := rfl
@[simp] theorem State.writeFlag_stack (s : State) (b : Byte) : (s.writeFlag b).stack = s.stack := rfl
@[simp] theorem State.writeFlag_sp (s : State) (b : Byte) : (s.writeFlag b).sp = s.sp := rfl
@[simp] theorem State.writeFlag_dt (s : State) (b : Byte) : (s.writeFlag b).dt = s.dt := rfl
@[simp] theorem State.writeFlag_st (s : State) (b : Byte) : (s.writeFlag b).st = s.st := rfl
@[simp] theorem State.writeFlag_disp (s : State) (b : Byte) : (s.writeFlag b).disp = s.disp := rfl
@[simp] theorem State.writeFlag_key (s : State) (b : Byte) : (s.writeFlag b).key = s.key := rfl
@[simp] theorem State.writeFlag_dirty (s : State) (b : Byte) : (s.writeFlag b).dirty = s.dirty := rfl
@[simp] theorem State.writeFlag_qShift (s : State) (b : Byte) : (s.writeFlag b).qShift = s.qShift := rfl
@[simp] theorem State.writeFlag_qJump (s : State) (b : Byte) : (s.writeFlag b).qJump = s.qJump := rfl
@[simp] theorem State.writeFlag_qIndex (s : State) (b : Byte) : (s.writeFlag b).qIndex = s.qIndex := rfl
@[simp] theorem State.writeFlag_fault (s : State) (b : Byte) : (s.writeFlag b).fault = s.fault := rfl
@[simp] theorem State.writeFlag_mem (s : State) (b : Byte) : (s.writeFlag b).mem = s.mem := rfl
@[simp] theorem State.writeFlag_keysIn (s : State) (b : Byte) : (s.writeFlag b).keysIn = s.keysIn := rfl
@[simp] theorem State.writeFlag_randIn (s : State) (b : Byte) : (s.writeFlag b).randIn = s.randIn := rfl
@[simp] theorem State.writeFlag_hostQueue (s : State) (b : Byte) : (s.writeFlag b).hostQueue = s.hostQueue := rfl
@[simp] theorem State.writeFlag_hostTime (s : State) (b : Byte) : (s.writeFlag b).hostTime = s.hostTime := rfl

@[simp] theorem State.jump_v (s : State) (a : Word) : (s.jump a).v = s.v := rfl
@[simp] theorem State.jump_i (s : State) (a : Word) : (s.jump a).i = s.i := rfl
@[simp] theorem State.jump_pc (s : State) (a : Word) : (s.jump a).pc = a := rfl
@[simp] theorem State.jump_stack (s : State) (a : Word) : (s.jump a).stack = s.stack := rfl
@[simp] theorem State.jump_sp (s : State) (a : Word) : (s.jump a).sp = s.sp := rfl
@[simp] theorem State.jump_dt (s : State) (a : Word) : (s.jump a).dt = s.dt := rfl
@[simp] theorem State.jump_st (s : State) (a : Word) : (s.jump a).st = s.st := rfl
@[simp] theorem State.jump_disp (s : State) (a : Word) : (s.jump a).disp = s.disp := rfl
@[simp] theorem State.jump_key (s : State) (a : Word) : (s.jump a).key = s.key := rfl
@[simp] theorem State.jump_dirty (s : State) (a : Word) : (s.jump a).dirty = s.dirty := rfl
@[simp] theorem State.jump_qShift (s : State) (a : Word) : (s.jump a).qShift = s.qShift := rfl
@[simp] theorem State.jump_qJump (s : State) (a : Word) : (s.jump a).qJump = s.qJump := rfl
@[simp] theorem State.jump_qIndex (s : State) (a : Word) : (s.jump a).qIndex = s.qIndex := rfl
@[simp] theorem State.jump_fault (s : State) (a : Word) : (s.jump a).fault = s.fault := rfl
@[simp] theorem State.jump_mem (s : State) (a : Word) : (s.jump a).mem = s.mem := rfl
@[simp] theorem State.jump_keysIn (s : State) (a : Word) : (s.jump a).keysIn = s.keysIn := rfl
@[simp] theorem State.jump_randIn (s : State) (a : Word) : (s.jump a).randIn = s.randIn := rfl
@[simp] theorem State.jump_hostQueue (s : State) (a : Word) : (s.jump a).hostQueue = s.hostQueue := rfl
@[simp] theorem State.jump_hostTime (s : State) (a : Word) : (s.jump a).hostTime = s.hostTime := rfl

@[simp] theorem State.skipIf_v (s : State) (c : Bool) : (s.skipIf c).v = s.v := rfl
@[simp] theorem State.skipIf_i (s : State) (c : Bool) : (s.skipIf c).i = s.i := rfl
@[simp] theorem State.skipIf_pc (s : State) (c : Bool) : (s.skipIf c).pc = if c then s.pc + 2#16 else s.pc := rfl
@[simp] theorem State.skipIf_stack (s : State) (c : Bool) : (s.skipIf c).stack = s.stack := rfl
@[simp] theorem State.skipIf_sp (s : State) (c : Bool) : (s.skipIf c).sp = s.sp := rfl
@[simp] theorem State.skipIf_dt (s : State) (c : Bool) : (s.skipIf c).dt = s.dt := rfl
@[simp] theorem State.skipIf_st (s : State) (c : Bool) : (s.skipIf c).st = s.st := rfl
@[simp] theorem State.skipIf_disp (s : State) (c : Bool) : (s.skipIf c).disp = s.disp := rfl
@[simp] theorem State.skipIf_key (s : State) (c : Bool) : (s.skipIf c).key = s.key := rfl
@[simp] theorem State.skipIf_dirty (s : State) (c : Bool) : (s.skipIf c).dirty = s.dirty := rfl
@[simp] theorem State.skipIf_qShift (s : State) (c : Bool) : (s.skipIf c).qShift = s.qShift := rfl
@[simp] theorem State.skipIf_qJump (s : State) (c : Bool) : (s.skipIf c).qJump = s.qJump := rfl
@[simp] theorem State.skipIf_qIndex (s : State) (c : Bool) : (s.skipIf c).qIndex = s.qIndex := rfl
@[simp] theorem State.skipIf_fault (s : State) (c : Bool) : (s.skipIf c).fault = s.fault := rfl
@[simp] theorem State.skipIf_mem (s : State) (c : Bool) : (s.skipIf c).mem = s.mem := rfl
@[simp] theorem State.skipIf_keysIn (s : State) (c : Bool) : (s.skipIf c).keysIn = s.keysIn := rfl
@[simp] theorem State.skipIf_randIn (s : State) (c : Bool) : (s.skipIf c).randIn = s.randIn := rfl
@[simp] theorem State.skipIf_hostQueue (s : State) (c : Bool) : (s.skipIf c).hostQueue = s.hostQueue := rfl
@[simp] theorem State.skipIf_hostTime (s : State) (c : Bool) : (s.skipIf c).hostTime = s.hostTime := rfl

@[simp] theorem State.writeI_v (s : State) (n : Nat) : (s.writeI n).v = s.v := rfl
@[simp] theorem State.writeI_i (s : State) (n : Nat) : (s.writeI n).i = BitVec.ofNat 16 (n % 0x1000) := rfl
@[simp] theorem State.writeI_pc (s : State) (n : Nat) : (s.writeI n).pc = s.pc := rfl
@[simp] theorem State.writeI_stack (s : State) (n : Nat) : (s.writeI n).stack = s.stack := rfl
@[simp] theorem State.writeI_sp (s : State) (n : Nat) : (s.writeI n).sp = s.sp := rfl
@[simp] theorem State.writeI_dt (s : State) (n : Nat) : (s.writeI n).dt = s.dt := rfl
@[simp] theorem State.writeI_st (s : State) (n : Nat) : (s.writeI n).st = s.st := rfl
@[simp] theorem State.writeI_disp (s : State) (n : Nat) : (s.writeI n).disp = s.disp := rfl
@[simp] theorem State.writeI_key (s : State) (n : Nat) : (s.writeI n).key = s.key := rfl
@[simp] theorem State.writeI_dirty (s : State) (n : Nat) : (s.writeI n).dirty = s.dirty := rfl
@[simp] theorem State.writeI_qShift (s : State) (n : Nat) : (s.writeI n).qShift = s.qShift := rfl
@[simp] theorem State.writeI_qJump (s : State) (n : Nat) : (s.writeI n).qJump = s.qJump := rfl
@[simp] theorem State.writeI_qIndex (s : State) (n : Nat) : (s.writeI n).qIndex = s.qIndex := rfl
@[simp] theorem State.writeI_fault (s : State) (n : Nat) : (s.writeI n).fault = s.fault := rfl
@[simp] theorem State.writeI_mem (s : State) (n : Nat) : (s.writeI n).mem = s.mem := rfl
@[simp] theorem State.writeI_keysIn (s : State) (n : Nat) : (s.writeI n).keysIn = s.keysIn := rfl
@[simp] theorem State.writeI_randIn (s : State) (n : Nat) : (s.writeI n).randIn = s.randIn := rfl
@[simp] theorem State.writeI_hostQueue (s : State) (n : Nat) : (s.writeI n).hostQueue = s.hostQueue := rfl
@[simp] theorem State.writeI_hostTime (s : State) (n : Nat) : (s.writeI n).hostTime = s.hostTime := rfl

@[simp] theorem State.store_v (s : State) (base : Nat) (bs : List Byte) : (s.store base bs).v = s.v := rfl
@[simp] theorem State.store_i (s : State) (base : Nat) (bs : List Byte) : (s.store base bs).i = s.i := rfl
@[simp] theorem State.store_pc (s : State) (base : Nat) (bs : List Byte) : (s.store base bs).pc = s.pc := rfl
@[simp] theorem State.store_stack (s : State) (base : Nat) (bs : List Byte) : (s.store base bs).stack = s.stack := rfl
@[simp] theorem State.store_sp (s : State) (base : Nat) (bs : List Byte) : (s.store base bs).sp = s.sp := rfl
@[simp] theorem State.store_dt (s : State) (base : Nat) (bs : List Byte) : (s.store base bs).dt = s.dt := rfl
@[simp] theorem State.store_st (s : State) (base : Nat) (bs : List Byte) : (s.store base bs).st = s.st := rfl
@[simp] theorem State.store_disp (s : State) (base : Nat) (bs : List Byte) : (s.store base bs).disp = s.disp := rfl
@[simp] theorem State.store_key (s : State) (base : Nat) (bs : List Byte) : (s.store base bs).key = s.key := rfl
@[simp] theorem State.store_dirty (s : State) (base : Nat) (bs : List Byte) : (s.store base bs).dirty = s.dirty := rfl
@[simp] theorem State.store_qShift (s : State) (base : Nat) (bs : List Byte) : (s.store base bs).qShift = s.qShift := rfl
@[simp] theorem State.store_qJump (s : State) (base : Nat) (bs : List Byte) : (s.store base bs).qJump = s.qJump := rfl
@[simp] theorem State.store_qIndex (s : State) (base : Nat) (bs : List Byte) : (s.store base bs).qIndex = s.qIndex := rfl
@[simp] theorem State.store_fault (s : State) (base : Nat) (bs : List Byte) : (s.store base bs).fault = s.fault := rfl
@[simp] theorem State.store_mem (s : State) (base : Nat) (bs : List Byte) : (s.store base bs).mem = Memory.writeList s.mem base bs := rfl
@[simp] theorem State.store_keysIn (s : State) (base : Nat) (bs : List Byte) : (s.store base bs).keysIn = s.keysIn := rfl
@[simp] theorem State.store_randIn (s : State) (base : Nat) (bs : List Byte) : (s.store base bs).randIn = s.randIn := rfl
@[simp] theorem State.store_hostQueue (s : State) (base : Nat) (bs : List Byte) : (s.store base bs).hostQueue = s.hostQueue := rfl
@[simp] theorem State.store_hostTime (s : State) (base : Nat) (bs : List Byte) : (s.store base bs).hostTime = s.hostTime := rfl

@[simp] theorem State.loadRegs_i (s : State) (base k : Nat) : (s.loadRegs base k).i = s.i := rfl
@[simp] theorem State.loadRegs_pc (s : State) (base k : Nat) : (s.loadRegs base k).pc = s.pc := rfl
@[simp] theorem State.loadRegs_stack (s : State) (base k : Nat) : (s.loadRegs base k).stack = s.stack := rfl
@[simp] theorem State.loadRegs_sp (s : State) (base k : Nat) : (s.loadRegs base k).sp = s.sp := rfl
@[simp] theorem State.loadRegs_dt (s : State) (base k : Nat) : (s.loadRegs base k).dt = s.dt := rfl
@[simp] theorem State.loadRegs_st (s : State) (base k : Nat) : (s.loadRegs base k).st = s.st := rfl
@[simp] theorem State.loadRegs_disp (s : State) (base k : Nat) : (s.loadRegs base k).disp = s.disp := rfl
@[simp] theorem State.loadRegs_key (s : State) (base k : Nat) : (s.loadRegs base k).key = s.key := rfl
@[simp] theorem State.loadRegs_dirty (s : State) (base k : Nat) : (s.loadRegs base k).dirty = s.dirty := rfl
@[simp] theorem State.loadRegs_qShift (s : State) (base k : Nat) : (s.loadRegs base k).qShift = s.qShift := rfl
@[simp] theorem State.loadRegs_qJump (s : State) (base k : Nat) : (s.loadRegs base k).qJump = s.qJump := rfl
@[simp] theorem State.loadRegs_qIndex (s : State) (base k : Nat) : (s.loadRegs base k).qIndex = s.qIndex := rfl
@[simp] theorem State.loadRegs_fault (s : State) (base k : Nat) : (s.loadRegs base k).fault = s.fault := rfl
@[simp] theorem State.loadRegs_mem (s : State) (base k : Nat) : (s.loadRegs base k).mem = s.mem := rfl
@[simp] theorem State.loadRegs_keysIn (s : State) (base k : Nat) : (s.loadRegs base k).keysIn = s.keysIn := rfl
@[simp] theorem State.loadRegs_randIn (s : State) (base k : Nat) : (s.loadRegs base k).randIn = s.randIn := rfl
@[simp] theorem State.loadRegs_hostQueue (s : State) (base k : Nat) : (s.loadRegs base k).hostQueue = s.hostQueue := rfl
@[simp] theorem State.loadRegs_hostTime (s : State) (base k : Nat) : (s.loadRegs base k).hostTime = s.hostTime := rfl

@[simp] theorem State.advanceIndex_v (s : State) (k : Nat) : (s.advanceIndex k).v = s.v := rfl
@[simp] theorem State.advanceIndex_pc (s : State) (k : Nat) : (s.advanceIndex k).pc = s.pc := rfl
@[simp] theorem State.advanceIndex_stack (s : State) (k : Nat) : (s.advanceIndex k).stack = s.stack := rfl
@[simp] theorem State.advanceIndex_sp (s : State) (k : Nat) : (s.advanceIndex k).sp = s.sp := rfl
@[simp] theorem State.advanceIndex_dt (s : State) (k : Nat) : (s.advanceIndex k).dt = s.dt := rfl
@[simp] theorem State.advanceIndex_st (s : State) (k : Nat) : (s.advanceIndex k).st = s.st := rfl
@[simp] theorem State.advanceIndex_disp (s : State) (k : Nat) : (s.advanceIndex k).disp = s.disp := rfl
@[simp] theorem State.advanceIndex_key (s : State) (k : Nat) : (s.advanceIndex k).key = s.key := rfl
@[simp] theorem State.advanceIndex_dirty (s : State) (k : Nat) : (s.advanceIndex k).dirty = s.dirty := rfl
@[simp] theorem State.advanceIndex_qShift (s : State) (k : Nat) : (s.advanceIndex k).qShift = s.qShift := rfl
@[simp] theorem State.advanceIndex_qJump (s : State) (k : Nat) : (s.advanceIndex k).qJump = s.qJump := rfl
@[simp] theorem State.advanceIndex_qIndex (s : State) (k : Nat) : (s.advanceIndex k).qIndex = s.qIndex := rfl
@[simp] theorem State.advanceIndex_fault (s : State) (k : Nat) : (s.advanceIndex k).fault = s.fault := rfl
@[simp] theorem State.advanceIndex_mem (s : State) (k : Nat) : (s.advanceIndex k).mem = s.mem := rfl
@[simp] theorem State.advanceIndex_keysIn (s : State) (k : Nat) : (s.advanceIndex k).keysIn = s.keysIn := rfl
@[simp] theorem State.advanceIndex_randIn (s : State) (k : Nat) : (s.advanceIndex k).randIn = s.randIn := rfl
@[simp] theorem State.advanceIndex_hostQueue (s : State) (k : Nat) : (s.advanceIndex k).hostQueue = s.hostQueue := rfl
@[simp] theorem State.advanceIndex_hostTime (s : State) (k : Nat) : (s.advanceIndex k).hostTime = s.hostTime := rfl

@[simp] theorem State.raise_v (s : State) (c : FaultCode) : (s.raise c).v = s.v := rfl
@[simp] theorem State.raise_i (s : State) (c : FaultCode) : (s.raise c).i = s.i := rfl
@[simp] theorem State.raise_pc (s : State) (c : FaultCode) : (s.raise c).pc = s.pc := rfl
@[simp] theorem State.raise_stack (s : State) (c : FaultCode) : (s.raise c).stack = s.stack := rfl
@[simp] theorem State.raise_sp (s : State) (c : FaultCode) : (s.raise c).sp = s.sp := rfl
@[simp] theorem State.raise_dt (s : State) (c : FaultCode) : (s.raise c).dt = s.dt := rfl
@[simp] theorem State.raise_st (s : State) (c : FaultCode) : (s.raise c).st = s.st := rfl
@[simp] theorem State.raise_disp (s : State) (c : FaultCode) : (s.raise c).disp = s.disp := rfl
@[simp] theorem State.raise_key (s : State) (c : FaultCode) : (s.raise c).key = s.key := rfl
@[simp] theorem State.raise_dirty (s : State) (c : FaultCode) : (s.raise c).dirty = s.dirty := rfl
@[simp] theorem State.raise_qShift (s : State) (c : FaultCode) : (s.raise c).qShift = s.qShift := rfl
@[simp] theorem State.raise_qJump (s : State) (c : FaultCode) : (s.raise c).qJump = s.qJump := rfl
@[simp] theorem State.raise_qIndex (s : State) (c : FaultCode) : (s.raise c).qIndex = s.qIndex := rfl
@[simp] theorem State.raise_fault (s : State) (c : FaultCode) : (s.raise c).fault = c := rfl
@[simp] theorem State.raise_mem (s : State) (c : FaultCode) : (s.raise c).mem = s.mem := rfl
@[simp] theorem State.raise_keysIn (s : State) (c : FaultCode) : (s.raise c).keysIn = s.keysIn := rfl
@[simp] theorem State.raise_randIn (s : State) (c : FaultCode) : (s.raise c).randIn = s.randIn := rfl
@[simp] theorem State.raise_hostQueue (s : State) (c : FaultCode) : (s.raise c).hostQueue = s.hostQueue := rfl
@[simp] theorem State.raise_hostTime (s : State) (c : FaultCode) : (s.raise c).hostTime = s.hostTime := rfl

@[simp] theorem State.resultThenFlag_i (s : State) (x : Nibble) (r f : Byte) : (s.resultThenFlag x r f).i = s.i := rfl
@[simp] theorem State.resultThenFlag_pc (s : State) (x : Nibble) (r f : Byte) : (s.resultThenFlag x r f).pc = s.pc := rfl
@[simp] theorem State.resultThenFlag_stack (s : State) (x : Nibble) (r f : Byte) : (s.resultThenFlag x r f).stack = s.stack := rfl
@[simp] theorem State.resultThenFlag_sp (s : State) (x : Nibble) (r f : Byte) : (s.resultThenFlag x r f).sp = s.sp := rfl
@[simp] theorem State.resultThenFlag_dt (s : State) (x : Nibble) (r f : Byte) : (s.resultThenFlag x r f).dt = s.dt := rfl
@[simp] theorem State.resultThenFlag_st (s : State) (x : Nibble) (r f : Byte) : (s.resultThenFlag x r f).st = s.st := rfl
@[simp] theorem State.resultThenFlag_disp (s : State) (x : Nibble) (r f : Byte) : (s.resultThenFlag x r f).disp = s.disp := rfl
@[simp] theorem State.resultThenFlag_key (s : State) (x : Nibble) (r f : Byte) : (s.resultThenFlag x r f).key = s.key := rfl
@[simp] theorem State.resultThenFlag_dirty (s : State) (x : Nibble) (r f : Byte) : (s.resultThenFlag x r f).dirty = s.dirty := rfl
@[simp] theorem State.resultThenFlag_qShift (s : State) (x : Nibble) (r f : Byte) : (s.resultThenFlag x r f).qShift = s.qShift := rfl
@[simp] theorem State.resultThenFlag_qJump (s : State) (x : Nibble) (r f : Byte) : (s.resultThenFlag x r f).qJump = s.qJump := rfl
@[simp] theorem State.resultThenFlag_qIndex (s : State) (x : Nibble) (r f : Byte) : (s.resultThenFlag x r f).qIndex = s.qIndex := rfl
@[simp] theorem State.resultThenFlag_fault (s : State) (x : Nibble) (r f : Byte) : (s.resultThenFlag x r f).fault = s.fault := rfl
@[simp] theorem State.resultThenFlag_mem (s : State) (x : Nibble) (r f : Byte) : (s.resultThenFlag x r f).mem = s.mem := rfl
@[simp] theorem State.resultThenFlag_keysIn (s : State) (x : Nibble) (r f : Byte) : (s.resultThenFlag x r f).keysIn = s.keysIn := rfl
@[simp] theorem State.resultThenFlag_randIn (s : State) (x : Nibble) (r f : Byte) : (s.resultThenFlag x r f).randIn = s.randIn := rfl
@[simp] theorem State.resultThenFlag_hostQueue (s : State) (x : Nibble) (r f : Byte) : (s.resultThenFlag x r f).hostQueue = s.hostQueue := rfl
@[simp] theorem State.resultThenFlag_hostTime (s : State) (x : Nibble) (r f : Byte) : (s.resultThenFlag x r f).hostTime = s.hostTime := rfl

@[simp] theorem State.flagThenResult_i (s : State) (x : Nibble) (f r : Byte → Byte) : (s.flagThenResult x f r).i = s.i := rfl
@[simp] theorem State.flagThenResult_pc (s : State) (x : Nibble) (f r : Byte → Byte) : (s.flagThenResult x f r).pc = s.pc := rfl
@[simp] theorem State.flagThenResult_stack (s : State) (x : Nibble) (f r : Byte → Byte) : (s.flagThenResult x f r).stack = s.stack := rfl
@[simp] theorem State.flagThenResult_sp (s : State) (x : Nibble) (f r : Byte → Byte) : (s.flagThenResult x f r).sp = s.sp := rfl
@[simp] theorem State.flagThenResult_dt (s : State) (x : Nibble) (f r : Byte → Byte) : (s.flagThenResult x f r).dt = s.dt := rfl
@[simp] theorem State.flagThenResult_st (s : State) (x : Nibble) (f r : Byte → Byte) : (s.flagThenResult x f r).st = s.st := rfl
@[simp] theorem State.flagThenResult_disp (s : State) (x : Nibble) (f r : Byte → Byte) : (s.flagThenResult x f r).disp = s.disp := rfl
@[simp] theorem State.flagThenResult_key (s : State) (x : Nibble) (f r : Byte → Byte) : (s.flagThenResult x f r).key = s.key := rfl
@[simp] theorem State.flagThenResult_dirty (s : State) (x : Nibble) (f r : Byte → Byte) : (s.flagThenResult x f r).dirty = s.dirty := rfl
@[simp] theorem State.flagThenResult_qShift (s : State) (x : Nibble) (f r : Byte → Byte) : (s.flagThenResult x f r).qShift = s.qShift := rfl
@[simp] theorem State.flagThenResult_qJump (s : State) (x : Nibble) (f r : Byte → Byte) : (s.flagThenResult x f r).qJump = s.qJump := rfl
@[simp] theorem State.flagThenResult_qIndex (s : State) (x : Nibble) (f r : Byte → Byte) : (s.flagThenResult x f r).qIndex = s.qIndex := rfl
@[simp] theorem State.flagThenResult_fault (s : State) (x : Nibble) (f r : Byte → Byte) : (s.flagThenResult x f r).fault = s.fault := rfl
@[simp] theorem State.flagThenResult_mem (s : State) (x : Nibble) (f r : Byte → Byte) : (s.flagThenResult x f r).mem = s.mem := rfl
@[simp] theorem State.flagThenResult_keysIn (s : State) (x : Nibble) (f r : Byte → Byte) : (s.flagThenResult x f r).keysIn = s.keysIn := rfl
@[simp] theorem State.flagThenResult_randIn (s : State) (x : Nibble) (f r : Byte → Byte) : (s.flagThenResult x f r).randIn = s.randIn := rfl
@[simp] theorem State.flagThenResult_hostQueue (s : State) (x : Nibble) (f r : Byte → Byte) : (s.flagThenResult x f r).hostQueue = s.hostQueue := rfl
@[simp] theorem State.flagThenResult_hostTime (s : State) (x : Nibble) (f r : Byte → Byte) : (s.flagThenResult x f r).hostTime = s.hostTime := rfl

@[simp] theorem State.beginCycle_v (s : State) : s.beginCycle.v = s.v := rfl
@[simp] theorem State.beginCycle_i (s : State) : s.beginCycle.i = s.i := rfl
@[simp] theorem State.beginCycle_pc (s : State) : s.beginCycle.pc = s.pc := rfl
@[simp] theorem State.beginCycle_stack (s : State) : s.beginCycle.stack = s.stack := rfl
@[simp] theorem State.beginCycle_sp (s : State) : s.beginCycle.sp = s.sp := rfl
@[simp] theorem State.beginCycle_dt (s : State) : s.beginCycle.dt = s.dt := rfl
@[simp] theorem State.beginCycle_st (s : State) : s.beginCycle.st = s.st := rfl
@[simp] theorem State.beginCycle_disp (s : State) : s.beginCycle.disp = s.disp := rfl
@[simp] theorem State.beginCycle_key (s : State) : s.beginCycle.key = s.keysIn := rfl
@[simp] theorem State.beginCycle_dirty (s : State) : s.beginCycle.dirty = false := rfl
@[simp] theorem State.beginCycle_qShift (s : State) : s.beginCycle.qShift = s.qShift := rfl
@[simp] theorem State.beginCycle_qJump (s : State) : s.beginCycle.qJump = s.qJump := rfl
@[simp] theorem State.beginCycle_qIndex (s : State) : s.beginCycle.qIndex = s.qIndex := rfl
@[simp] theorem State.beginCycle_fault (s : State) : s.beginCycle.fault = s.fault := rfl
@[simp] theorem State.beginCycle_mem (s : State) : s.beginCycle.mem = s.mem := rfl
@[simp] theorem State.beginCycle_keysIn (s : State) : s.beginCycle.keysIn = s.keysIn := rfl
@[simp] theorem State.beginCycle_randIn (s : State) : s.beginCycle.randIn = s.randIn := rfl
@[simp] theorem State.beginCycle_hostQueue (s : State) : s.beginCycle.hostQueue = s.hostQueue := rfl
@[simp] theorem State.beginCycle_hostTime (s : State) : s.beginCycle.hostTime = s.hostTime := rfl

@[simp] theorem State.advancePc_v (s : State) : s.advancePc.v = s.v := rfl
@[simp] theorem State.advancePc_i (s : State) : s.advancePc.i = s.i := rfl
@[simp] theorem State.advancePc_pc (s : State) : s.advancePc.pc = s.pc + 2#16 := rfl
@[simp] theorem State.advancePc_stack (s : State) : s.advancePc.stack = s.stack := rfl
@[simp] theorem State.advancePc_sp (s : State) : s.advancePc.sp = s.sp := rfl
@[simp] theorem State.advancePc_dt (s : State) : s.advancePc.dt = s.dt := rfl
@[simp] theorem State.advancePc_st (s : State) : s.advancePc.st = s.st := rfl
@[simp] theorem State.advancePc_disp (s : State) : s.advancePc.disp = s.disp := rfl
@[simp] theorem State.advancePc_key (s : State) : s.advancePc.key = s.key := rfl
@[simp] theorem State.advancePc_dirty (s : State) : s.advancePc.dirty = s.dirty := rfl
@[simp] theorem State.advancePc_qShift (s : State) : s.advancePc.qShift = s.qShift := rfl
@[simp] theorem State.advancePc_qJump (s : State) : s.advancePc.qJump = s.qJump := rfl
@[simp] theorem State.advancePc_qIndex (s : State) : s.advancePc.qIndex = s.qIndex := rfl
@[simp] theorem State.advancePc_fault (s : State) : s.advancePc.fault = s.fault := rfl
@[simp] theorem State.advancePc_mem (s : State) : s.advancePc.mem = s.mem := rfl
@[simp] theorem State.advancePc_keysIn (s : State) : s.advancePc.keysIn = s.keysIn := rfl
@[simp] theorem State.advancePc_randIn (s : State) : s.advancePc.randIn = s.randIn := rfl
@[simp] theorem State.advancePc_hostQueue (s : State) : s.advancePc.hostQueue = s.hostQueue := rfl
@[simp] theorem State.advancePc_hostTime (s : State) : s.advancePc.hostTime = s.hostTime := rfl

@[simp] theorem State.present_v (s : State) (k : BitVec 16) (r : Byte) : (s.present k r).v = s.v := rfl
@[simp] theorem State.present_i (s : State) (k : BitVec 16) (r : Byte) : (s.present k r).i = s.i := rfl
@[simp] theorem State.present_pc (s : State) (k : BitVec 16) (r : Byte) : (s.present k r).pc = s.pc := rfl
@[simp] theorem State.present_stack (s : State) (k : BitVec 16) (r : Byte) : (s.present k r).stack = s.stack := rfl
@[simp] theorem State.present_sp (s : State) (k : BitVec 16) (r : Byte) : (s.present k r).sp = s.sp := rfl
@[simp] theorem State.present_dt (s : State) (k : BitVec 16) (r : Byte) : (s.present k r).dt = s.dt := rfl
@[simp] theorem State.present_st (s : State) (k : BitVec 16) (r : Byte) : (s.present k r).st = s.st := rfl
@[simp] theorem State.present_disp (s : State) (k : BitVec 16) (r : Byte) : (s.present k r).disp = s.disp := rfl
@[simp] theorem State.present_key (s : State) (k : BitVec 16) (r : Byte) : (s.present k r).key = s.key := rfl
@[simp] theorem State.present_dirty (s : State) (k : BitVec 16) (r : Byte) : (s.present k r).dirty = s.dirty := rfl
@[simp] theorem State.present_qShift (s : State) (k : BitVec 16) (r : Byte) : (s.present k r).qShift = s.qShift := rfl
@[simp] theorem State.present_qJump (s : State) (k : BitVec 16) (r : Byte) : (s.present k r).qJump = s.qJump := rfl
@[simp] theorem State.present_qIndex (s : State) (k : BitVec 16) (r : Byte) : (s.present k r).qIndex = s.qIndex := rfl
@[simp] theorem State.present_fault (s : State) (k : BitVec 16) (r : Byte) : (s.present k r).fault = s.fault := rfl
@[simp] theorem State.present_mem (s : State) (k : BitVec 16) (r : Byte) : (s.present k r).mem = s.mem := rfl
@[simp] theorem State.present_keysIn (s : State) (k : BitVec 16) (r : Byte) : (s.present k r).keysIn = k := rfl
@[simp] theorem State.present_randIn (s : State) (k : BitVec 16) (r : Byte) : (s.present k r).randIn = r := rfl
@[simp] theorem State.present_hostQueue (s : State) (k : BitVec 16) (r : Byte) : (s.present k r).hostQueue = s.hostQueue := rfl
@[simp] theorem State.present_hostTime (s : State) (k : BitVec 16) (r : Byte) : (s.present k r).hostTime = s.hostTime := rfl

end Sys2Proof.Machine
end

