-- ==== Sys2Proof/Laws/Ops.lean ====
section
/-! SUPPORT. What each shared operation can do, said once: registers, flag, call stack, range check, memory
transfers. -/

namespace Sys2Proof.Machine

/-! ## Registers -/

@[simp] theorem readV_writeV_same (s : State) (x : Nibble) (b : Byte) : (s.writeV x b).readV x = b := by
  simp [State.readV, State.writeV]

theorem readV_writeV_other (s : State) {x y : Nibble} (b : Byte) (h : y ≠ x) :
    (s.writeV x b).readV y = s.readV y := by
  have h' : x.toNat ≠ y.toNat := fun e => h (BitVec.eq_of_toNat_eq e.symm)
  simp only [State.readV, State.writeV]
  exact Vector.getElem_set_ne _ _ h'

theorem readV_writeV (s : State) (x y : Nibble) (b : Byte) :
    (s.writeV x b).readV y = if y = x then b else s.readV y := by
  split
  · subst y; simp
  · exact readV_writeV_other s b ‹_›

@[simp] theorem readV_writeFlag_same (s : State) (b : Byte) : (s.writeFlag b).readV 15#4 = b :=
  readV_writeV_same s _ b

theorem readV_writeFlag_other (s : State) {y : Nibble} (b : Byte) (h : y ≠ 15#4) :
    (s.writeFlag b).readV y = s.readV y := readV_writeV_other s b h

theorem writeV_byteAt (s : State) (x : Nibble) (b : Byte) (a : Nat) : (s.writeV x b).byteAt a = s.byteAt a := rfl

/-- The result of a flag-writing instruction, the flag last: for `x` = 15 the flag is what stays. -/
theorem readV_resultThenFlag (s : State) (x y : Nibble) (r f : Byte) :
    (s.resultThenFlag x r f).readV y = if y = 15#4 then f else if y = x then r else s.readV y := by
  simp only [State.resultThenFlag, State.writeFlag, readV_writeV]

/-- The result of a shift, the flag first: for `x` = 15 the shifted flag is what stays. -/
theorem readV_flagThenResult (s : State) (x y : Nibble) (f r : Byte → Byte) :
    (s.flagThenResult x f r).readV y =
      if y = x then r (if x = 15#4 then f (s.readV x) else s.readV x)
      else if y = 15#4 then f (s.readV x) else s.readV y := by
  simp only [State.flagThenResult, State.writeFlag, readV_writeV]

/-- Loading `k` bytes into `V[0..k-1]`. -/
theorem readV_loadRegs (s : State) (base k : Nat) (y : Nibble) :
    (s.loadRegs base k).readV y = if y.toNat < k then s.byteAt (base + y.toNat) else s.readV y := by
  simp [State.loadRegs, State.readV]

/-! ## Faults -/

theorem raise_byteAt (s : State) (c : FaultCode) (a : Nat) : (s.raise c).byteAt a = s.byteAt a := rfl

/-- The range check says exactly that bytes are accessed and the last of them is past memory. -/
theorem dataFaults_iff (s : State) (len : Nat) :
    s.dataFaults len = true ↔ 0 < len ∧ 4096 ≤ s.i.toNat + len - 1 := by
  rw [State.dataFaults, Bool.and_eq_true, decide_eq_true_iff, decide_eq_true_iff, memSize]

theorem dataFaults_eq_false (s : State) (len : Nat) :
    s.dataFaults len = false ↔ (0 < len → s.i.toNat + len - 1 < 4096) := by
  rw [← Bool.not_eq_true, dataFaults_iff]; omega

/-! ## Call stack -/

/-- What a call does, by the number of entries. -/
theorem callTo_cases (s : State) (target : Word) :
    (s.sp.toNat = 16 ∧ s.callTo target = .next (s.raise .stackOverflow)) ∨
    (∃ h : s.sp.toNat < 16, s.callTo target =
      .next { s with stack := s.stack.set s.sp.toNat s.pc h, sp := s.sp + 1#5, pc := target }) ∨
    (16 < s.sp.toNat ∧ s.callTo target = .fault .stackSlotAbsent) := by
  unfold State.callTo
  split
  · exact .inl ⟨by simp [*], rfl⟩
  · have : s.sp.toNat ≠ 16 := fun e => ‹¬ s.sp = 16#5› (BitVec.eq_of_toNat_eq e)
    split
    · exact .inr (.inl ⟨‹_›, rfl⟩)
    · exact .inr (.inr ⟨by omega, rfl⟩)

/-- What a return does, by the number of entries. -/
theorem popPc_cases (s : State) :
    (s.sp.toNat = 0 ∧ s.popPc = .next (s.raise .stackUnderflow)) ∨
    (0 < s.sp.toNat ∧ ∃ h : s.sp.toNat - 1 < 16, s.popPc =
      .next { s with sp := s.sp - 1#5, pc := s.stack[s.sp.toNat - 1] }) ∨
    (16 < s.sp.toNat ∧ s.popPc = .fault .stackSlotAbsent) := by
  unfold State.popPc
  split
  · exact .inl ⟨by simp [*], rfl⟩
  · have : s.sp.toNat ≠ 0 := fun e => ‹¬ s.sp = 0#5› (BitVec.eq_of_toNat_eq e)
    split
    · exact .inr (.inl ⟨by omega, ‹_›, rfl⟩)
    · exact .inr (.inr ⟨by omega, rfl⟩)

/-! ## Memory transfers -/

@[simp] theorem length_regBytes (s : State) (k : Nat) : (s.regBytes k).length = min k 16 := by
  simp [State.regBytes]

theorem getElem_regBytes (s : State) {k j : Nat} (h : j < (s.regBytes k).length) (hj : j < 16) :
    (s.regBytes k)[j] = s.v[j] := by
  simp [State.regBytes]

/-- A store keeps the canonical form. -/
theorem store_wf (s : State) {base : Nat} {bs : List Byte} (h : base + bs.length ≤ memSize)
    (hm : Memory.wf s.mem = true) : Memory.wf (s.store base bs).mem = true := writeList_keeps_wf h hm

theorem store_byteAt_other (s : State) {base a : Nat} {bs : List Byte} (h : a < base ∨ base + bs.length ≤ a) :
    (s.store base bs).byteAt a = s.byteAt a := read_writeList_other h

theorem store_byteAt (s : State) {base k : Nat} {bs : List Byte} (hk : k < bs.length)
    (h : base + bs.length ≤ memSize) (hm : Memory.wf s.mem = true) :
    (s.store base bs).byteAt (base + k) = bs[k] := read_writeList_at hk h hm

/-! ## Index register -/

theorem toNat_writeI (s : State) (n : Nat) : (s.writeI n).i.toNat = n % 0x1000 := by
  simp only [State.writeI_i, BitVec.toNat_ofNat]; omega

end Sys2Proof.Machine
end

