-- ==== Sys2Proof/Laws/Cycle.lean ====
section
/-! SUPPORT. The tick, the cycle and the step, said once. -/

namespace Sys2Proof.Machine

/-! ## The timers (60_exceptions.md R172) -/

theorem toNat_countDown (t : Byte) : (countDown t).toNat = t.toNat - 1 := by
  unfold countDown
  split <;> rename_i h
  · rw [BitVec.lt_def] at h
    simp only [BitVec.toNat_ofNat, BitVec.toNat_sub] at *
    have := t.isLt
    omega
  · rw [BitVec.lt_def] at h
    simp only [BitVec.toNat_ofNat] at h
    omega

theorem toNat_countDownBy (k : Nat) (t : Byte) : (countDownBy k t).toNat = t.toNat - k := by
  unfold countDownBy
  split
  · subst t; simp
  · have := t.isLt
    simp only [BitVec.toNat_ofNat]
    omega

theorem countDownBy_zero (t : Byte) : countDownBy 0 t = t :=
  BitVec.eq_of_toNat_eq (by simp [toNat_countDownBy])

theorem countDownBy_succ (k : Nat) (t : Byte) : countDownBy (k + 1) t = countDownBy k (countDown t) :=
  BitVec.eq_of_toNat_eq (by simp only [toNat_countDownBy, toNat_countDown]; omega)

/-- No tick changes nothing. -/
theorem ticks_zero (s : State) : s.ticks 0 = s := by
  unfold State.ticks
  split <;> simp [countDownBy_zero]

/-- One more tick: the closed form is the repetition of `tick`. -/
theorem ticks_succ (k : Nat) (s : State) : s.ticks (k + 1) = s.tick.ticks k := by
  by_cases h : s.halted = true
  · simp [State.ticks, State.tick, h]
  · have ht : s.tick = { s with dt := countDown s.dt, st := countDown s.st } := if_neg h
    rw [ht]
    exact (if_neg h).trans (by rw [countDownBy_succ, countDownBy_succ]; exact (if_neg h).symm)

/-! ## The step -/

/-- A step is the performance of the oldest request, or a cycle of a free one. -/
theorem step_cases (s : State) :
    (s.hostQueue = [] ∧ step s = cycle s.drawRequest) ∨
    (∃ r rest, s.hostQueue = r :: rest ∧ step s = perform r { s with hostQueue := rest }) := by
  unfold step hostStep
  split
  · exact .inl ⟨‹_›, rfl⟩
  · exact .inr ⟨_, _, ‹_›, rfl⟩

/-- What a cycle does: nothing when halted, the fault of the fetch, or the execution of the decoded word. -/
theorem cycle_cases (s : State) :
    (s.halted = true ∧ cycle s = .next s) ∨
    (s.halted = false ∧ 4096 ≤ s.pc.toNat + 1 ∧ cycle s = .next (s.beginCycle.raise .fetchOob)) ∨
    (s.halted = false ∧ s.pc.toNat + 1 < 4096 ∧
      cycle s = exec (decodeWord s.fetchWord) s.beginCycle.advancePc) := by
  unfold cycle
  split
  · exact .inl ⟨‹_›, rfl⟩
  · have h := Bool.not_eq_true _ |>.mp ‹¬ s.halted = true›
    unfold fetchExec
    split
    · exact .inr (.inl ⟨h, of_decide_eq_true ‹s.beginCycle.fetchFaults = true›, rfl⟩)
    · have hf : ¬ 4096 ≤ s.pc.toNat + 1 := of_decide_eq_false (Bool.not_eq_true _ |>.mp ‹¬ s.beginCycle.fetchFaults = true›)
      exact .inr (.inr ⟨h, by omega, rfl⟩)

/-- `withFetchWord` places the word where the next step fetches, and nothing stands in the way of the fetch. -/
theorem placeWord_fetchWord (s : State) (w : Word) (hm : Memory.wf s.mem = true) (h : s.pc.toNat + 1 < 4096) :
    (s.placeWord w).fetchWord = joinBytes (highByte w) (lowByte w) ∧ (s.placeWord w).halted = false := by
  have hlen : s.pc.toNat + (wordBytes w).length ≤ memSize := by simp [wordBytes, memSize]; omega
  have h0 := read_writeList_at (k := 0) (bs := wordBytes w) (by simp [wordBytes]) hlen hm
  have h1 := read_writeList_at (k := 1) (bs := wordBytes w) (by simp [wordBytes]) hlen hm
  exact ⟨congrArg₂ joinBytes h0 h1, rfl⟩

end Sys2Proof.Machine
end

