-- ==== Sys2Proof/Laws/Display.lean ====
section
/-! SUPPORT. What one sprite bit, a sprite row and a whole sprite do to the display and the flag
(43_display.md R131, R132). -/

namespace Sys2Proof.Machine

/-- The pixels after one sprite bit: XOR at its place on the grid, the others as before. -/
theorem pixel_plot (a : Display × Bool) (py px r c : Nat) (bit : Bool) (hr : r < 32) (hc : c < 64) :
    pixel (plot a py px bit).1 r c = (pixel a.1 r c ^^ (decide (r = py ∧ c = px) && bit)) := by
  unfold plot
  split
  · rename_i h
    simp only [pixel, hr, hc, and_self, dite_true, Vector.getElem_set]
    by_cases h1 : r = py
    · subst r
      by_cases h2 : c = px
      · subst c; simp
      · simp [h2, Ne.symm h2]
    · simp [h1, Ne.symm h1]
  · rename_i h
    have : ¬ (r = py ∧ c = px) := by rintro ⟨rfl, rfl⟩; exact h ⟨hr, hc⟩
    simp [this]

/-- The flag after one sprite bit: set when the bit turns off a pixel of the grid. -/
theorem flag_plot (a : Display × Bool) (py px : Nat) (bit : Bool) :
    (plot a py px bit).2 = (a.2 || (bit && pixel a.1 py px)) := by
  unfold plot pixel
  split <;> simp

/-- The blank display is off everywhere. -/
theorem pixel_blankDisplay (r c : Nat) : pixel blankDisplay r c = false := by
  simp [pixel, blankDisplay]

/-- The pixel is off outside the grid. -/
theorem pixel_outside (d : Display) {r c : Nat} (h : ¬ (r < 32 ∧ c < 64)) : pixel d r c = false := dif_neg h

/-- The first `k` columns of a sprite row: what they do to a pixel of the grid. -/
theorem pixel_rowPrefix (b : Byte) (ox py : Nat) (a : Display × Bool) (r c : Nat) (hr : r < 32) (hc : c < 64)
    (k : Nat) :
    pixel ((List.range k).foldl (fun a col => plot a py (ox + col) (b.getLsbD (7 - col))) a).1 r c =
      (pixel a.1 r c ^^ (decide (r = py ∧ ox ≤ c ∧ c < ox + k) && b.getLsbD (7 - (c - ox)))) := by
  induction k with
  | zero =>
    have h : ¬ (r = py ∧ ox ≤ c ∧ c < ox + 0) := by omega
    simp only [List.range_zero, List.foldl_nil, h, decide_false, Bool.false_and, Bool.xor_false]
  | succ k ih =>
    rw [List.range_succ, List.foldl_append]
    simp only [List.foldl_cons, List.foldl_nil]
    rw [pixel_plot _ _ _ _ _ _ hr hc, ih]
    by_cases h : r = py ∧ c = ox + k
    · obtain ⟨rfl, rfl⟩ := h
      simp
    · have e : (r = py ∧ ox ≤ c ∧ c < ox + (k + 1)) ↔ (r = py ∧ ox ≤ c ∧ c < ox + k) := by omega
      simp only [h, e, decide_false, Bool.false_and, Bool.xor_false]

/-- The first `k` columns of a sprite row: the flag. -/
theorem flag_rowPrefix (b : Byte) (ox py : Nat) (a : Display × Bool) (k : Nat) :
    ((List.range k).foldl (fun a col => plot a py (ox + col) (b.getLsbD (7 - col))) a).2 = true ↔
      a.2 = true ∨ ∃ c, ox ≤ c ∧ c < ox + k ∧ b.getLsbD (7 - (c - ox)) = true ∧ pixel a.1 py c = true := by
  induction k with
  | zero => simp; intros; omega
  | succ k ih =>
    rw [List.range_succ, List.foldl_append]
    simp only [List.foldl_cons, List.foldl_nil]
    rw [flag_plot, Bool.or_eq_true, Bool.and_eq_true, ih, or_assoc]
    refine or_congr_right ?_
    have e : pixel ((List.range k).foldl (fun a col => plot a py (ox + col) (b.getLsbD (7 - col))) a).1 py (ox + k)
        = pixel a.1 py (ox + k) := by
      by_cases h : py < 32 ∧ ox + k < 64
      · rw [pixel_rowPrefix _ _ _ _ _ _ h.1 h.2]; simp
      · rw [pixel_outside _ h, pixel_outside _ h]
    rw [e]
    constructor
    · rintro (⟨c, h1, h2, h3⟩ | ⟨h1, h2⟩)
      · exact ⟨c, h1, by omega, h3⟩
      · exact ⟨ox + k, by omega, by omega, by simpa using h1, h2⟩
    · rintro ⟨c, h1, h2, h3, h4⟩
      by_cases hc : c = ox + k
      · subst c; exact .inr ⟨by simpa using h3, h4⟩
      · exact .inl ⟨c, h1, by omega, h3, h4⟩

/-- The first `n` rows of a sprite: what they do to a pixel of the grid. -/
theorem pixel_drawSprite (m : List Host.Cell) (base ox oy : Nat) (d : Display) (r c : Nat) (hr : r < 32)
    (hc : c < 64) (n : Nat) :
    pixel (drawSprite m base n ox oy d).1 r c =
      (pixel d r c ^^ (decide (oy ≤ r ∧ r < oy + n ∧ ox ≤ c ∧ c < ox + 8) &&
        (Memory.read m (base + (r - oy))).getLsbD (7 - (c - ox)))) := by
  unfold drawSprite
  induction n with
  | zero =>
    have h : ¬ (oy ≤ r ∧ r < oy + 0 ∧ ox ≤ c ∧ c < ox + 8) := by omega
    simp only [List.range_zero, List.foldl_nil, h, decide_false, Bool.false_and, Bool.xor_false]
  | succ n ih =>
    rw [List.range_succ, List.foldl_append]
    simp only [List.foldl_cons, List.foldl_nil]
    rw [drawRow, pixel_rowPrefix _ _ _ _ _ _ hr hc, ih]
    by_cases h : r = oy + n
    · subst r
      by_cases h2 : ox ≤ c ∧ c < ox + 8 <;> simp [h2]
    · have e : (oy ≤ r ∧ r < oy + (n + 1) ∧ ox ≤ c ∧ c < ox + 8) ↔
          (oy ≤ r ∧ r < oy + n ∧ ox ≤ c ∧ c < ox + 8) := by omega
      simp only [h, e, false_and, decide_false, Bool.false_and, Bool.xor_false]

/-- The first `n` rows of a sprite: the flag, set when a sprite bit falls on a pixel that is on. -/
theorem flag_drawSprite (m : List Host.Cell) (base ox oy : Nat) (d : Display) (n : Nat) :
    (drawSprite m base n ox oy d).2 = true ↔
      ∃ r c, oy ≤ r ∧ r < oy + n ∧ ox ≤ c ∧ c < ox + 8 ∧
        (Memory.read m (base + (r - oy))).getLsbD (7 - (c - ox)) = true ∧ pixel d r c = true := by
  induction n with
  | zero => simp [drawSprite]; intros; omega
  | succ n ih =>
    have e : drawSprite m base (n + 1) ox oy d =
        drawRow (Memory.read m (base + n)) ox (oy + n) (drawSprite m base n ox oy d) := by
      simp only [drawSprite, List.range_succ, List.foldl_append, List.foldl_cons, List.foldl_nil]
    rw [e, drawRow, flag_rowPrefix, ih]
    have e2 : ∀ c, pixel (drawSprite m base n ox oy d).1 (oy + n) c = pixel d (oy + n) c := by
      intro c
      by_cases h : oy + n < 32 ∧ c < 64
      · rw [pixel_drawSprite _ _ _ _ _ _ _ h.1 h.2]; simp
      · rw [pixel_outside _ h, pixel_outside _ h]
    simp only [e2]
    constructor
    · rintro (⟨r, c, h1, h2, h3⟩ | ⟨c, h1, h2, h3, h4⟩)
      · exact ⟨r, c, h1, by omega, h3⟩
      · exact ⟨oy + n, c, by omega, by omega, h1, h2, by simpa using h3, h4⟩
    · rintro ⟨r, c, h1, h2, h3, h4, h5, h6⟩
      by_cases hr : r = oy + n
      · subst r; exact .inr ⟨c, h3, h4, by simpa using h5, h6⟩
      · exact .inl ⟨r, c, h1, by omega, h3, h4, h5, h6⟩

end Sys2Proof.Machine
end

