-- ==== Sys2Proof/Laws/Encoding.lean ====
section
/-! SUPPORT. The bits of the three word formats (30_encoding.md R62) and the fields cut from them (R61). -/

namespace Sys2Proof

theorem getLsbD_wordNnn (op : Nibble) (nnn : Addr) (j : Nat) :
    (wordNnn op nnn).getLsbD j = if j < 12 then nnn.getLsbD j else op.getLsbD (j - 12) :=
  BitVec.getLsbD_append

theorem getLsbD_wordXnn (op x : Nibble) (nn : Byte) (j : Nat) :
    (wordXnn op x nn).getLsbD j =
      if j < 8 then nn.getLsbD j
      else if j - 8 < 4 then x.getLsbD (j - 8) else op.getLsbD (j - 8 - 4) := by
  refine BitVec.getLsbD_append.trans ?_
  split
  · rfl
  · exact BitVec.getLsbD_append

theorem getLsbD_wordXyn (op x y n : Nibble) (j : Nat) :
    (wordXyn op x y n).getLsbD j =
      if j < 4 then n.getLsbD j
      else if j - 4 < 4 then y.getLsbD (j - 4)
      else if j - 4 - 4 < 4 then x.getLsbD (j - 4 - 4) else op.getLsbD (j - 4 - 4 - 4) := by
  refine BitVec.getLsbD_append.trans ?_
  split
  · rfl
  · refine BitVec.getLsbD_append.trans ?_
    split
    · rfl
    · exact BitVec.getLsbD_append

/-- The two bytes of a word join to the word (20_memory.md R43). -/
theorem joinBytes_wordBytes (w : Word) : joinBytes (highByte w) (lowByte w) = w := by
  apply BitVec.eq_of_getLsbD_eq
  intro j hj
  refine BitVec.getLsbD_append.trans ?_
  split <;> simp [highByte, lowByte, BitVec.getLsbD_extractLsb'] <;> grind

end Sys2Proof
end

