-- ==== Sys2Proof/Laws/PerInstr.lean ====
section
/-! SUPPORT. For every instruction: the word the encoder gives it selects its row of spec/opcode_table.json, that
is `word & mask = match` (30_encoding.md R69). The masks and matches are the table's own numbers. -/

namespace Sys2Proof.Laws.TableRow

/-- The `mask` column. -/
def mask : Instr → Word
  | .cls => 0xFFFF#16
  | .ret => 0xFFFF#16
  | .sys _ => 0xF000#16
  | .jp _ => 0xF000#16
  | .call _ => 0xF000#16
  | .seImm _ _ => 0xF000#16
  | .sneImm _ _ => 0xF000#16
  | .seReg _ _ => 0xF00F#16
  | .ldImm _ _ => 0xF000#16
  | .addImm _ _ => 0xF000#16
  | .ldReg _ _ => 0xF00F#16
  | .orReg _ _ => 0xF00F#16
  | .andReg _ _ => 0xF00F#16
  | .xorReg _ _ => 0xF00F#16
  | .addReg _ _ => 0xF00F#16
  | .subReg _ _ => 0xF00F#16
  | .shr _ _ => 0xF00F#16
  | .subn _ _ => 0xF00F#16
  | .shl _ _ => 0xF00F#16
  | .sneReg _ _ => 0xF00F#16
  | .ldI _ => 0xF000#16
  | .jpV0 _ => 0xF000#16
  | .rnd _ _ => 0xF000#16
  | .drw _ _ _ => 0xF000#16
  | .skp _ => 0xF0FF#16
  | .sknp _ => 0xF0FF#16
  | .ldVxDt _ => 0xF0FF#16
  | .ldVxK _ => 0xF0FF#16
  | .ldDtVx _ => 0xF0FF#16
  | .ldStVx _ => 0xF0FF#16
  | .addI _ => 0xF0FF#16
  | .ldF _ => 0xF0FF#16
  | .ldB _ => 0xF0FF#16
  | .ldMemVx _ => 0xF0FF#16
  | .ldVxMem _ => 0xF0FF#16
  | .reserved5 _ _ _ => 0xF000#16
  | .reserved8 _ _ _ => 0xF000#16
  | .reserved9 _ _ _ => 0xF000#16
  | .reservedE _ _ => 0xF000#16
  | .reservedF _ _ => 0xF000#16

/-- The `match` column. -/
def pattern : Instr → Word
  | .cls => 0x00E0#16
  | .ret => 0x00EE#16
  | .sys _ => 0x0000#16
  | .jp _ => 0x1000#16
  | .call _ => 0x2000#16
  | .seImm _ _ => 0x3000#16
  | .sneImm _ _ => 0x4000#16
  | .seReg _ _ => 0x5000#16
  | .ldImm _ _ => 0x6000#16
  | .addImm _ _ => 0x7000#16
  | .ldReg _ _ => 0x8000#16
  | .orReg _ _ => 0x8001#16
  | .andReg _ _ => 0x8002#16
  | .xorReg _ _ => 0x8003#16
  | .addReg _ _ => 0x8004#16
  | .subReg _ _ => 0x8005#16
  | .shr _ _ => 0x8006#16
  | .subn _ _ => 0x8007#16
  | .shl _ _ => 0x800E#16
  | .sneReg _ _ => 0x9000#16
  | .ldI _ => 0xA000#16
  | .jpV0 _ => 0xB000#16
  | .rnd _ _ => 0xC000#16
  | .drw _ _ _ => 0xD000#16
  | .skp _ => 0xE09E#16
  | .sknp _ => 0xE0A1#16
  | .ldVxDt _ => 0xF007#16
  | .ldVxK _ => 0xF00A#16
  | .ldDtVx _ => 0xF015#16
  | .ldStVx _ => 0xF018#16
  | .addI _ => 0xF01E#16
  | .ldF _ => 0xF029#16
  | .ldB _ => 0xF033#16
  | .ldMemVx _ => 0xF055#16
  | .ldVxMem _ => 0xF065#16
  | .reserved5 _ _ _ => 0x5000#16
  | .reserved8 _ _ _ => 0x8000#16
  | .reserved9 _ _ _ => 0x9000#16
  | .reservedE _ _ => 0xE000#16
  | .reservedF _ _ => 0xF000#16

/-- The instruction's word selects its row. -/
def Statement (i : Instr) : Prop := encode i &&& mask i = pattern i

theorem nnn_row (op : Nibble) (nnn : Addr) : wordNnn op nnn &&& 0xF000#16 = wordNnn op 0#12 := by
  apply BitVec.eq_of_getLsbD_eq
  intro j hj
  simp only [BitVec.getLsbD_and, getLsbD_wordNnn]
  interval_cases j <;> simp

theorem xnn_row (op x : Nibble) (nn : Byte) : wordXnn op x nn &&& 0xF000#16 = wordNnn op 0#12 := by
  apply BitVec.eq_of_getLsbD_eq
  intro j hj
  simp only [BitVec.getLsbD_and, getLsbD_wordNnn, getLsbD_wordXnn]
  interval_cases j <;> simp

theorem xff_row (op x : Nibble) (nn : Byte) : wordXnn op x nn &&& 0xF0FF#16 = wordXnn op 0#4 nn := by
  apply BitVec.eq_of_getLsbD_eq
  intro j hj
  simp only [BitVec.getLsbD_and, getLsbD_wordXnn]
  interval_cases j <;> simp

theorem xyn_row (op x y n : Nibble) : wordXyn op x y n &&& 0xF000#16 = wordNnn op 0#12 := by
  apply BitVec.eq_of_getLsbD_eq
  intro j hj
  simp only [BitVec.getLsbD_and, getLsbD_wordNnn, getLsbD_wordXyn]
  interval_cases j <;> simp

theorem xyf_row (op x y n : Nibble) : wordXyn op x y n &&& 0xF00F#16 = wordXyn op 0#4 0#4 n := by
  apply BitVec.eq_of_getLsbD_eq
  intro j hj
  simp only [BitVec.getLsbD_and, getLsbD_wordXyn]
  interval_cases j <;> simp

theorem cls : Statement .cls := rfl
theorem ret : Statement .ret := rfl
theorem sys (nnn : Addr) : Statement (.sys nnn) := nnn_row _ nnn
theorem jp (nnn : Addr) : Statement (.jp nnn) := nnn_row _ nnn
theorem call (nnn : Addr) : Statement (.call nnn) := nnn_row _ nnn
theorem seImm (x : Nibble) (nn : Byte) : Statement (.seImm x nn) := xnn_row _ x nn
theorem sneImm (x : Nibble) (nn : Byte) : Statement (.sneImm x nn) := xnn_row _ x nn
theorem seReg (x : Nibble) (y : Nibble) : Statement (.seReg x y) := xyf_row _ x y _
theorem ldImm (x : Nibble) (nn : Byte) : Statement (.ldImm x nn) := xnn_row _ x nn
theorem addImm (x : Nibble) (nn : Byte) : Statement (.addImm x nn) := xnn_row _ x nn
theorem ldReg (x : Nibble) (y : Nibble) : Statement (.ldReg x y) := xyf_row _ x y _
theorem orReg (x : Nibble) (y : Nibble) : Statement (.orReg x y) := xyf_row _ x y _
theorem andReg (x : Nibble) (y : Nibble) : Statement (.andReg x y) := xyf_row _ x y _
theorem xorReg (x : Nibble) (y : Nibble) : Statement (.xorReg x y) := xyf_row _ x y _
theorem addReg (x : Nibble) (y : Nibble) : Statement (.addReg x y) := xyf_row _ x y _
theorem subReg (x : Nibble) (y : Nibble) : Statement (.subReg x y) := xyf_row _ x y _
theorem shr (x : Nibble) (y : Nibble) : Statement (.shr x y) := xyf_row _ x y _
theorem subn (x : Nibble) (y : Nibble) : Statement (.subn x y) := xyf_row _ x y _
theorem shl (x : Nibble) (y : Nibble) : Statement (.shl x y) := xyf_row _ x y _
theorem sneReg (x : Nibble) (y : Nibble) : Statement (.sneReg x y) := xyf_row _ x y _
theorem ldI (nnn : Addr) : Statement (.ldI nnn) := nnn_row _ nnn
theorem jpV0 (nnn : Addr) : Statement (.jpV0 nnn) := nnn_row _ nnn
theorem rnd (x : Nibble) (nn : Byte) : Statement (.rnd x nn) := xnn_row _ x nn
theorem drw (x : Nibble) (y : Nibble) (n : Nibble) : Statement (.drw x y n) := xyn_row _ x y n
theorem skp (x : Nibble) : Statement (.skp x) := xff_row _ x _
theorem sknp (x : Nibble) : Statement (.sknp x) := xff_row _ x _
theorem ldVxDt (x : Nibble) : Statement (.ldVxDt x) := xff_row _ x _
theorem ldVxK (x : Nibble) : Statement (.ldVxK x) := xff_row _ x _
theorem ldDtVx (x : Nibble) : Statement (.ldDtVx x) := xff_row _ x _
theorem ldStVx (x : Nibble) : Statement (.ldStVx x) := xff_row _ x _
theorem addI (x : Nibble) : Statement (.addI x) := xff_row _ x _
theorem ldF (x : Nibble) : Statement (.ldF x) := xff_row _ x _
theorem ldB (x : Nibble) : Statement (.ldB x) := xff_row _ x _
theorem ldMemVx (x : Nibble) : Statement (.ldMemVx x) := xff_row _ x _
theorem ldVxMem (x : Nibble) : Statement (.ldVxMem x) := xff_row _ x _
theorem reserved5 (x : Nibble) (y : Nibble) (n : Nibble) : Statement (.reserved5 x y n) := xyn_row _ x y n
theorem reserved8 (x : Nibble) (y : Nibble) (n : Nibble) : Statement (.reserved8 x y n) := xyn_row _ x y n
theorem reserved9 (x : Nibble) (y : Nibble) (n : Nibble) : Statement (.reserved9 x y n) := xyn_row _ x y n
theorem reservedE (x : Nibble) (nn : Byte) : Statement (.reservedE x nn) := xnn_row _ x nn
theorem reservedF (x : Nibble) (nn : Byte) : Statement (.reservedF x nn) := xnn_row _ x nn

end Sys2Proof.Laws.TableRow
end

