-- ==== Sys2Proof/Tests/Slice0.lean ====
section
/-! SUPPORT. Tests: ill-formed terms refused, one word of every constructor decoded, single steps with the values
of spec/95_test_vectors.md (the vector is named in each test), and for every obligation with hypotheses a state
and operands that meet them, at the boundaries of its clauses. -/

namespace Sys2Proof.Tests

-- One theorem after another: each kernel evaluation on a thread of its own exhausts the threads of the check.
set_option Elab.async false

open Sys2Proof Sys2Proof.Machine

/-! ## Ill-formed terms (30_encoding.md R66, R67: the words of other rows) -/

theorem test_wf_refuses_sys_of_cls : (Instr.sys 0x0E0#12).wf = false := by decide
theorem test_wf_refuses_sys_of_ret : (Instr.sys 0x0EE#12).wf = false := by decide
theorem test_wf_refuses_reserved5_of_se : (Instr.reserved5 1#4 2#4 0#4).wf = false := by decide
theorem test_wf_refuses_reserved8_of_operations :
    ∀ n ∈ [0#4, 1#4, 2#4, 3#4, 4#4, 5#4, 6#4, 7#4, 14#4], (Instr.reserved8 1#4 2#4 n).wf = false := by decide
theorem test_wf_refuses_reserved9_of_sne : (Instr.reserved9 1#4 2#4 0#4).wf = false := by decide
theorem test_wf_refuses_reservedE_of_skips :
    ∀ nn ∈ [0x9E#8, 0xA1#8], (Instr.reservedE 1#4 nn).wf = false := by decide
theorem test_wf_refuses_reservedF_of_operations :
    ∀ nn ∈ [0x07#8, 0x0A#8, 0x15#8, 0x18#8, 0x1E#8, 0x29#8, 0x33#8, 0x55#8, 0x65#8],
      (Instr.reservedF 1#4 nn).wf = false := by decide

/-! ## Decoding: a word of every row, written out nibble by nibble from R66 and R67 -/

theorem test_decode_cls : decode [0x00#8, 0xE0#8] = .instr .cls [] := by decide
theorem test_decode_ret : decode [0x00#8, 0xEE#8] = .instr .ret [] := by decide
theorem test_decode_sys : decode [0x0F#8, 0xED#8] = .instr (.sys 0xFED#12) [] := by decide
theorem test_decode_jp : decode [0x1A#8, 0xBC#8] = .instr (.jp 0xABC#12) [] := by decide
theorem test_decode_call : decode [0x2A#8, 0xBC#8] = .instr (.call 0xABC#12) [] := by decide
theorem test_decode_seImm : decode [0x3A#8, 0xBC#8] = .instr (.seImm 0xA#4 0xBC#8) [] := by decide
theorem test_decode_sneImm : decode [0x4A#8, 0xBC#8] = .instr (.sneImm 0xA#4 0xBC#8) [] := by decide
theorem test_decode_seReg : decode [0x5A#8, 0xB0#8] = .instr (.seReg 0xA#4 0xB#4) [] := by decide
theorem test_decode_ldImm : decode [0x6A#8, 0xBC#8] = .instr (.ldImm 0xA#4 0xBC#8) [] := by decide
theorem test_decode_addImm : decode [0x73#8, 0x10#8] = .instr (.addImm 3#4 0x10#8) [] := by decide
theorem test_decode_ldReg : decode [0x8A#8, 0xB0#8] = .instr (.ldReg 0xA#4 0xB#4) [] := by decide
theorem test_decode_orReg : decode [0x8A#8, 0xB1#8] = .instr (.orReg 0xA#4 0xB#4) [] := by decide
theorem test_decode_andReg : decode [0x8A#8, 0xB2#8] = .instr (.andReg 0xA#4 0xB#4) [] := by decide
theorem test_decode_xorReg : decode [0x8A#8, 0xB3#8] = .instr (.xorReg 0xA#4 0xB#4) [] := by decide
theorem test_decode_addReg : decode [0x8A#8, 0xB4#8] = .instr (.addReg 0xA#4 0xB#4) [] := by decide
theorem test_decode_subReg : decode [0x8A#8, 0xB5#8] = .instr (.subReg 0xA#4 0xB#4) [] := by decide
theorem test_decode_shr : decode [0x8A#8, 0xB6#8] = .instr (.shr 0xA#4 0xB#4) [] := by decide
theorem test_decode_subn : decode [0x8A#8, 0xB7#8] = .instr (.subn 0xA#4 0xB#4) [] := by decide
theorem test_decode_shl : decode [0x8A#8, 0xBE#8] = .instr (.shl 0xA#4 0xB#4) [] := by decide
theorem test_decode_sneReg : decode [0x9A#8, 0xB0#8] = .instr (.sneReg 0xA#4 0xB#4) [] := by decide
theorem test_decode_ldI : decode [0xAB#8, 0xCD#8] = .instr (.ldI 0xBCD#12) [] := by decide
theorem test_decode_jpV0 : decode [0xBC#8, 0xDE#8] = .instr (.jpV0 0xCDE#12) [] := by decide
theorem test_decode_rnd : decode [0xCA#8, 0xBC#8] = .instr (.rnd 0xA#4 0xBC#8) [] := by decide
theorem test_decode_drw : decode [0xDA#8, 0xBC#8] = .instr (.drw 0xA#4 0xB#4 0xC#4) [] := by decide
theorem test_decode_skp : decode [0xEA#8, 0x9E#8] = .instr (.skp 0xA#4) [] := by decide
theorem test_decode_sknp : decode [0xEA#8, 0xA1#8] = .instr (.sknp 0xA#4) [] := by decide
theorem test_decode_ldVxDt : decode [0xFA#8, 0x07#8] = .instr (.ldVxDt 0xA#4) [] := by decide
theorem test_decode_ldVxK : decode [0xFA#8, 0x0A#8] = .instr (.ldVxK 0xA#4) [] := by decide
theorem test_decode_ldDtVx : decode [0xFA#8, 0x15#8] = .instr (.ldDtVx 0xA#4) [] := by decide
theorem test_decode_ldStVx : decode [0xFA#8, 0x18#8] = .instr (.ldStVx 0xA#4) [] := by decide
theorem test_decode_addI : decode [0xFA#8, 0x1E#8] = .instr (.addI 0xA#4) [] := by decide
theorem test_decode_ldF : decode [0xFA#8, 0x29#8] = .instr (.ldF 0xA#4) [] := by decide
theorem test_decode_ldB : decode [0xFA#8, 0x33#8] = .instr (.ldB 0xA#4) [] := by decide
theorem test_decode_ldMemVx : decode [0xFA#8, 0x55#8] = .instr (.ldMemVx 0xA#4) [] := by decide
theorem test_decode_ldVxMem : decode [0xFA#8, 0x65#8] = .instr (.ldVxMem 0xA#4) [] := by decide
theorem test_decode_reserved5 : decode [0x5A#8, 0xB1#8] = .instr (.reserved5 0xA#4 0xB#4 1#4) [] := by decide
theorem test_decode_reserved8 : decode [0x8A#8, 0xBF#8] = .instr (.reserved8 0xA#4 0xB#4 15#4) [] := by decide
theorem test_decode_reserved9 : decode [0x9A#8, 0xBF#8] = .instr (.reserved9 0xA#4 0xB#4 15#4) [] := by decide
theorem test_decode_reservedE : decode [0xEA#8, 0x9F#8] = .instr (.reservedE 0xA#4 0x9F#8) [] := by decide
theorem test_decode_reservedF : decode [0xFA#8, 0x90#8] = .instr (.reservedF 0xA#4 0x90#8) [] := by decide

/-- Two bytes are taken, the rest is left. -/
theorem test_decode_leaves_the_rest :
    decode [0x12#8, 0x34#8, 0x56#8] = .instr (.jp 0x234#12) [0x56#8] := by decide
theorem test_decode_rejects_one_byte : decode [0x12#8] = .rejected .truncated := by decide
theorem test_decode_rejects_no_byte : decode [] = .rejected .truncated := by decide
/-- A row of the table, its bits numbered as the table numbers them (bit 15 first in `encoding`). -/
theorem test_decodeTableWord : decodeTableWord 16 0x7310 = some (.addImm 3#4 0x10#8) := by decide

/-! ## Single steps -/

/-- The answer is a next state with a property. -/
def ok (r : Result) (p : State → Bool) : Bool :=
  match r with
  | .next t => p t
  | .fault _ => false
  | .refused _ => false

/-- The reset state with one step request, keys `k` and random byte `r`. -/
def stepping (k : BitVec 16) (r : Byte) : State := { State.reset with hostQueue := [.step k r] }

/-- The start state of most vectors: keys 0, random byte 0. -/
def start : State := stepping 0#16 0#8

/-- Registers set. -/
def withRegs (s : State) (l : List (Nibble × Byte)) : State := l.foldl (fun s r => s.writeV r.1 r.2) s

/-- Bytes of memory set. -/
def withBytes (s : State) (a : Nat) (l : List Byte) : State := s.store a l

/-- Pixels set. -/
def lit (s : State) (l : List (Nat × Nat)) : State :=
  { s with disp := (l.foldl (fun a p => plot a p.1 p.2 true) (s.disp, false)).1 }

/-- The columns that are on in row `r`. -/
def onRow (s : State) (r : Nat) : List Nat := (List.range 64).filter (pixel s.disp r)

/-- One step that fetches the word `w`. -/
def run (s : State) (w : Nat) : Result := step (s.withFetchWord 16 w)

/-! ### The cycle and the fetch (vectors T1 to T7) -/

theorem test_T1_last_word_of_memory :
    ok (run { start with pc := 0xFFE#16 } 0x6A55)
      (fun t => t.readV 10#4 == 0x55#8 && t.pc == 0x1000#16 && t.status == 0#3) = true := by decide +kernel
theorem test_T2_fetch_past_end :
    ok (step { start with pc := 0x1000#16 }) (fun t => t.status == 1#3 && t.pc == 0x1000#16) = true := by
  decide +kernel
theorem test_T3_fetch_of_last_byte :
    ok (step { start with pc := 0xFFF#16 }) (fun t => t.status == 1#3 && t.pc == 0xFFF#16) = true := by
  decide +kernel
theorem test_T5_odd_address_high_byte_first :
    ok (step (withBytes { start with pc := 0x201#16 } 0x201 [0x6B#8, 0x77#8]))
      (fun t => t.readV 11#4 == 0x77#8 && t.pc == 0x203#16) = true := by decide +kernel
theorem test_T6_cycle_clears_dirty :
    ok (run { start with dirty := true } 0x0000) (fun t => !t.dirty && t.pc == 0x202#16) = true := by decide +kernel
theorem test_T7_halted_step_changes_nothing :
    ok (step { stepping 0xFFFF#16 1#8 with fault := .stackOverflow })
      (fun t => t.pc == 0x200#16 && t.key == 0#16 && t.status == 3#3) = true := by decide +kernel

/-! ### Control flow (T10 to T37) -/

theorem test_T11_sys : ok (run (withRegs start [(1, 5)]) 0x0FFF)
    (fun t => t.pc == 0x202#16 && t.readV 1#4 == 5#8) = true := by decide +kernel
theorem test_T12_ret :
    ok (run { start with pc := 0x300#16, sp := 2#5, stack := (start.stack.set 0 0x202#16).set 1 0xABC#16 } 0x00EE)
      (fun t => t.pc == 0xABC#16 && t.sp == 1#5) = true := by decide +kernel
theorem test_T13_ret_underflow :
    ok (run { start with pc := 0x300#16 } 0x00EE)
      (fun t => t.status == 4#3 && t.sp == 0#5 && t.pc == 0x302#16) = true := by decide +kernel
theorem test_T15_jp : ok (run start 0x1FFF) (fun t => t.pc == 0xFFF#16 && t.status == 0#3) = true := by
  decide +kernel
theorem test_T17_jp_odd : ok (run start 0x1201) (fun t => t.pc == 0x201#16) = true := by decide +kernel
theorem test_T18_call_last_slot :
    ok (run { start with pc := 0x400#16, sp := 15#5 } 0x2ABC)
      (fun t => t.stack[15] == 0x402#16 && t.sp == 16#5 && t.pc == 0xABC#16) = true := by decide +kernel
theorem test_T19_call_overflow :
    ok (run { start with pc := 0x400#16, sp := 16#5 } 0x2ABC)
      (fun t => t.status == 3#3 && t.sp == 16#5 && t.pc == 0x402#16 && t.stack == start.stack) = true := by
  decide +kernel
theorem test_T21_se_immediate : ok (run start 0x3A00) (fun t => t.pc == 0x204#16) = true := by decide +kernel
theorem test_T23_skip_past_end :
    ok (run { start with pc := 0xFFE#16 } 0x3A00) (fun t => t.pc == 0x1002#16) = true := by decide +kernel
theorem test_T24_sne_immediate : ok (run start 0x4A00) (fun t => t.pc == 0x202#16) = true := by decide +kernel
theorem test_T25_sne_immediate_skips : ok (run start 0x4A01) (fun t => t.pc == 0x204#16) = true := by decide +kernel
theorem test_T26_se_registers :
    ok (run (withRegs start [(3, 9)]) 0x5330) (fun t => t.pc == 0x204#16) = true := by decide +kernel
theorem test_T27_se_registers :
    ok (run (withRegs start [(1, 1), (2, 2)]) 0x5120) (fun t => t.pc == 0x202#16) = true := by decide +kernel
theorem test_T28_reserved5 :
    ok (run (withRegs start [(1, 2), (2, 2)]) 0x5121) (fun t => t.pc == 0x202#16) = true := by decide +kernel
theorem test_T29_sne_registers :
    ok (run (withRegs start [(1, 1), (2, 2)]) 0x9120) (fun t => t.pc == 0x204#16) = true := by decide +kernel
theorem test_T31_sne_registers :
    ok (run (withRegs start [(3, 9)]) 0x9330) (fun t => t.pc == 0x202#16) = true := by decide +kernel
theorem test_T32_reserved9 :
    ok (run (withRegs start [(1, 1), (2, 2)]) 0x912F) (fun t => t.pc == 0x202#16) = true := by decide +kernel
theorem test_T33_jp_offset :
    ok (run (withRegs start [(0, 0x10), (2, 4)]) 0xB234) (fun t => t.pc == 0x244#16) = true ∧
    ok (run (withRegs { start with qJump := true } [(0, 0x10), (2, 4)]) 0xB234)
      (fun t => t.pc == 0x238#16) = true := by decide +kernel
theorem test_T34_jp_offset_highest :
    ok (run (withRegs start [(0, 0xFF)]) 0xBFFF) (fun t => t.pc == 0x10FE#16) = true := by decide +kernel
theorem test_T37_reserved8 :
    ok (run (withRegs start [(1, 5), (2, 8)]) 0x8128)
      (fun t => t.pc == 0x202#16 && t.v == (withRegs start [(1, 5), (2, 8)]).v) = true := by decide +kernel
theorem test_T37_reservedE : ok (run start 0xE49F) (fun t => t.pc == 0x202#16) = true := by decide +kernel
theorem test_T37_reservedF : ok (run start 0xF3FF) (fun t => t.pc == 0x202#16) = true := by decide +kernel

/-! ### Loads, arithmetic, logic (T40 to T83) -/

theorem test_T40_load : ok (run start 0x6FFF) (fun t => t.readV 15#4 == 0xFF#8) = true := by decide +kernel
theorem test_T41_add_immediate_wraps :
    ok (run (withRegs start [(2, 0xFF)]) 0x7201)
      (fun t => t.readV 2#4 == 0#8 && t.readV 15#4 == 0#8) = true := by decide +kernel
theorem test_T42_add_immediate_vf :
    ok (run (withRegs start [(15, 0xFF)]) 0x7F02) (fun t => t.readV 15#4 == 1#8) = true := by decide +kernel
theorem test_T43_copy : ok (run (withRegs start [(4, 9)]) 0x8340) (fun t => t.readV 3#4 == 9#8) = true := by
  decide +kernel
theorem test_T44_or :
    ok (run (withRegs start [(1, 0x0F), (2, 0xA0), (15, 1)]) 0x8121)
      (fun t => t.readV 1#4 == 0xAF#8 && t.readV 15#4 == 1#8) = true := by decide +kernel
theorem test_T45_and :
    ok (run (withRegs start [(1, 0x3C), (2, 0x0F), (15, 1)]) 0x8122)
      (fun t => t.readV 1#4 == 0x0C#8 && t.readV 15#4 == 1#8) = true := by decide +kernel
theorem test_T46_xor :
    ok (run (withRegs start [(1, 0xFF), (2, 0x0F), (15, 1)]) 0x8123)
      (fun t => t.readV 1#4 == 0xF0#8 && t.readV 15#4 == 1#8) = true := by decide +kernel
theorem test_T52_add_255_no_carry :
    ok (run (withRegs start [(1, 100), (2, 155), (15, 1)]) 0x8124)
      (fun t => t.readV 1#4 == 255#8 && t.readV 15#4 == 0#8) = true := by decide +kernel
theorem test_T56_add_vf_destination :
    ok (run (withRegs start [(15, 0xFF), (2, 4)]) 0x8F24) (fun t => t.readV 15#4 == 1#8) = true := by
  decide +kernel
theorem test_T60_sub_equal :
    ok (run (withRegs start [(1, 7), (2, 7)]) 0x8125)
      (fun t => t.readV 1#4 == 0#8 && t.readV 15#4 == 1#8) = true := by decide +kernel
theorem test_T63_sub_vf_source :
    ok (run (withRegs start [(1, 5), (15, 1)]) 0x81F5)
      (fun t => t.readV 1#4 == 4#8 && t.readV 15#4 == 1#8) = true := by decide +kernel
theorem test_T67_subn_borrow :
    ok (run (withRegs start [(1, 7), (2, 5), (15, 1)]) 0x8127)
      (fun t => t.readV 1#4 == 0xFE#8 && t.readV 15#4 == 0#8) = true := by decide +kernel
theorem test_T70_subn_vf_source :
    ok (run (withRegs start [(1, 1), (15, 1)]) 0x81F7)
      (fun t => t.readV 1#4 == 0#8 && t.readV 15#4 == 1#8) = true := by decide +kernel
theorem test_T71_shr :
    ok (run (withRegs start [(1, 5), (2, 8)]) 0x8126)
      (fun t => t.readV 1#4 == 2#8 && t.readV 15#4 == 1#8) = true ∧
    ok (run (withRegs { start with qShift := true } [(1, 5), (2, 8)]) 0x8126)
      (fun t => t.readV 1#4 == 4#8 && t.readV 15#4 == 0#8 && t.readV 2#4 == 8#8) = true := by decide +kernel
theorem test_T75_shr_vf_destination :
    ok (run (withRegs start [(15, 3)]) 0x8F26) (fun t => t.readV 15#4 == 0#8) = true := by decide +kernel
theorem test_T78_shl :
    ok (run (withRegs start [(1, 0x81), (2, 0x40)]) 0x812E)
      (fun t => t.readV 1#4 == 2#8 && t.readV 15#4 == 1#8) = true ∧
    ok (run (withRegs { start with qShift := true } [(1, 0x81), (2, 0x40)]) 0x812E)
      (fun t => t.readV 1#4 == 0x80#8 && t.readV 15#4 == 0#8) = true := by decide +kernel
theorem test_T81_shl_vf_destination :
    ok (run (withRegs start [(15, 0x81)]) 0x8F2E) (fun t => t.readV 15#4 == 2#8) = true := by decide +kernel

/-! ### Index register and memory transfer (T90 to T117) -/

theorem test_T90_load_index : ok (run start 0xAFFF) (fun t => t.i == 0xFFF#16) = true := by decide +kernel
theorem test_T91_add_index_overflow :
    ok (run (withRegs { start with i := 0xFFE#16 } [(4, 5)]) 0xF41E)
      (fun t => t.i == 3#16 && t.readV 15#4 == 1#8) = true := by decide +kernel
theorem test_T96_add_index_vf_source :
    ok (run (withRegs { start with i := 0xFFF#16 } [(15, 1)]) 0xFF1E)
      (fun t => t.i == 0#16 && t.readV 15#4 == 1#8) = true := by decide +kernel
theorem test_T100_glyph_address :
    ok (run (withRegs start [(3, 0x0F)]) 0xF329) (fun t => t.i == 0x9B#16) = true := by decide +kernel
theorem test_T102_glyph_address_not_reduced :
    ok (run (withRegs start [(3, 0xFF)]) 0xF329) (fun t => t.i == 0x54B#16) = true := by decide +kernel
theorem test_T103_decimal :
    ok (run (withRegs { start with i := 0x300#16 } [(2, 157)]) 0xF233)
      (fun t => t.byteAt 0x300 == 1#8 && t.byteAt 0x301 == 5#8 && t.byteAt 0x302 == 7#8) = true := by
  decide +kernel
theorem test_T105_decimal_precise_fault :
    ok (run (withRegs { start with i := 0xFFE#16 } [(2, 255)]) 0xF233)
      (fun t => t.status == 2#3 && t.byteAt 0xFFE == 0#8 && t.pc == 0x202#16) = true := by decide +kernel
theorem test_T107_store_registers :
    ok (run (withRegs { start with i := 0x400#16, qIndex := true } [(0, 1), (1, 2), (2, 3), (3, 4)]) 0xF255)
      (fun t => t.byteAt 0x400 == 1#8 && t.byteAt 0x402 == 3#8 && t.byteAt 0x403 == 0#8 && t.i == 0x402#16) = true := by
  decide +kernel
theorem test_T113_store_into_font :
    ok (run (withRegs { start with i := 0x50#16 } [(0, 0xAA), (1, 0xBB)]) 0xF155)
      (fun t => t.byteAt 0x50 == 0xAA#8 && t.byteAt 0x51 == 0xBB#8 && t.i == 0x50#16) = true := by decide +kernel
theorem test_T115_load_font_bytes :
    ok (run { start with i := 0x50#16 } 0xFF65)
      (fun t => t.v.toList == [0xF0#8, 0x90#8, 0x90#8, 0x90#8, 0xF0#8, 0x20#8, 0x60#8, 0x20#8, 0x20#8, 0x70#8,
        0xF0#8, 0x10#8, 0xF0#8, 0x80#8, 0xF0#8, 0xF0#8]) = true := by decide +kernel
theorem test_T116_load_registers_fault :
    ok (run (withRegs { start with i := 0xFFF#16 } [(0, 1), (1, 2)]) 0xF165)
      (fun t => t.status == 2#3 && t.readV 0#4 == 1#8 && t.readV 1#4 == 2#8) = true := by decide +kernel

/-! ### Display (T120 to T138) -/

theorem test_T121_clear :
    ok (run (withRegs (lit start [(0, 0), (31, 63)]) [(15, 1)]) 0x00E0)
      (fun t => onRow t 0 == [] && onRow t 31 == [] && t.dirty && t.readV 15#4 == 1#8) = true := by decide +kernel
theorem test_T123_draw_clips_at_the_corner :
    ok (run (withRegs (withBytes { start with i := 0x300#16 } 0x300 [0xFF#8, 0x81#8, 0xFF#8])
        [(1, 60), (2, 30)]) 0xD123)
      (fun t => onRow t 0 == [] && onRow t 30 == [60, 61, 62, 63] && onRow t 31 == [60] && t.readV 15#4 == 0#8 &&
        t.dirty) = true := by decide +kernel
theorem test_T126_draw_collides :
    ok (run (lit (withBytes { start with i := 0x300#16 } 0x300 [0xC0#8]) [(0, 1), (0, 2)]) 0xD121)
      (fun t => onRow t 0 == [0, 2] && t.readV 15#4 == 1#8) = true := by decide +kernel

/-! ### Timers, random, keys, ticks, reset (T140 to T175) -/

theorem test_T140_read_delay :
    ok (run { start with dt := 9#8 } 0xF107) (fun t => t.readV 1#4 == 9#8 && t.dt == 9#8) = true := by
  decide +kernel
theorem test_T142_write_delay :
    ok (run (withRegs start [(1, 7)]) 0xF115) (fun t => t.dt == 7#8) = true := by decide +kernel
theorem test_T143_write_sound :
    ok (run (withRegs start [(1, 7)]) 0xF118) (fun t => t.st == 7#8 && t.soundActive) = true := by decide +kernel
theorem test_T144_write_sound_zero :
    ok (run { start with st := 5#8 } 0xF118) (fun t => t.st == 0#8 && !t.soundActive) = true := by decide +kernel
theorem test_T145_tick :
    ok (step { State.reset with dt := 2#8, st := 1#8, hostQueue := [.tick] })
      (fun t => t.dt == 1#8 && t.st == 0#8 && !t.soundActive) = true := by decide +kernel
theorem test_T145_tick_at_zero :
    ok (step { State.reset with hostQueue := [.tick] }) (fun t => t.dt == 0#8 && t.st == 0#8) = true := by
  decide +kernel
theorem test_T147_tick_halted :
    ok (step { State.reset with dt := 3#8, fault := .memOob, hostQueue := [.tick] }) (fun t => t.dt == 3#8)
      = true := by decide +kernel
theorem test_T149_random_masked :
    ok (run (stepping 0#16 0xA7#8) 0xC10F) (fun t => t.readV 1#4 == 7#8) = true := by decide +kernel
theorem test_T160_skip_pressed :
    ok (run (withRegs (stepping 0x0400#16 0#8) [(4, 10)]) 0xE49E) (fun t => t.pc == 0x204#16) = true := by
  decide +kernel
theorem test_T164_skip_key_16 :
    ok (run (withRegs (stepping 0xFFFF#16 0#8) [(4, 16)]) 0xE49E) (fun t => t.pc == 0x202#16) = true := by
  decide +kernel
theorem test_T163_skip_not_pressed :
    ok (run (withRegs (stepping 0xFBFF#16 0#8) [(4, 10)]) 0xE4A1) (fun t => t.pc == 0x204#16) = true := by
  decide +kernel
theorem test_T165_skip_not_pressed_key_16 :
    ok (run (withRegs (stepping 0xFFFF#16 0#8) [(4, 16)]) 0xE4A1) (fun t => t.pc == 0x204#16) = true := by
  decide +kernel
theorem test_T169_key_wait :
    ok (run (withRegs start [(3, 0x77)]) 0xF30A) (fun t => t.pc == 0x200#16 && t.readV 3#4 == 0x77#8) = true := by
  decide +kernel
theorem test_T170_key_lowest :
    ok (run (withRegs (stepping 0x0090#16 0#8) [(3, 0x77)]) 0xF30A)
      (fun t => t.pc == 0x202#16 && t.readV 3#4 == 4#8) = true := by decide +kernel

/-- What a host presents at a reset: a font of 80 bytes 11, the one-byte image A5, one strap. -/
def inputs : ResetInputs :=
  { image := [0xA5#8], font := Vector.replicate 80 0x11#8, qShift := true, qJump := false, qIndex := false }

/-- R190: reset of a halted block, at the boundaries of the memory map of R41. -/
theorem test_reset_request :
    ok (step { State.reset with fault := .memOob, pc := 0x1000#16, sp := 16#5, hostQueue := [.rst inputs] })
      (fun t => t.status == 0#3 && t.pc == 0x200#16 && t.sp == 0#5 && t.qShift && t.byteAt 0x4F == 0#8 &&
        t.byteAt 0x50 == 0x11#8 && t.byteAt 0x9F == 0x11#8 && t.byteAt 0xA0 == 0#8 && t.byteAt 0x1FF == 0#8 &&
        t.byteAt 0x200 == 0xA5#8 && t.byteAt 0x201 == 0#8 && t.byteAt 0xFFF == 0#8) = true := by decide +kernel
/-- The word placed after reset is the one the very next step runs, whatever the host draws. -/
theorem test_withFetchWord_from_reset :
    ok (step (State.reset.withFetchWord 16 0x1234)) (fun t => t.pc == 0x234#16) = true := by decide +kernel

/-! ## Witnesses: states and operands that meet the hypotheses of the obligations -/

theorem witness_DecodeOfEncode :
    (Instr.sys 0x0E1#12).wf = true ∧ (Instr.drw 15#4 15#4 15#4).wf = true ∧
    (Instr.reserved8 0#4 0#4 8#4).wf = true ∧ (Instr.reservedF 15#4 0xFF#8).wf = true := by decide
theorem witness_ReservedWordsAreNoOps :
    [Instr.reserved5 0#4 0#4 1#4, .reserved8 0#4 0#4 8#4, .reserved9 0#4 0#4 15#4, .reservedE 0#4 0x9F#8,
      .reservedF 0#4 0#8].all isReserved = true ∧
    [0x5001#16, 0x5FFF#16, 0x8008#16, 0x8FFF#16, 0x9001#16, 0x9FFF#16, 0xE000#16, 0xEFFF#16, 0xF000#16,
      0xFFFF#16].all (fun w => isReserved (decodeWord w)) = true ∧
    [0x5FF0#16, 0x8FF7#16, 0x8FFE#16, 0x9FF0#16, 0xEF9E#16, 0xFF65#16, 0x0000#16].any
      (fun w => isReserved (decodeWord w)) = false := by decide +kernel
theorem witness_SysWordsAreNoOps :
    (0x0000#16).toNat / 4096 = 0 ∧ 0x0000#16 ≠ 0x00E0#16 ∧ 0x0000#16 ≠ 0x00EE#16 ∧
    (0x0FFF#16).toNat / 4096 = 0 ∧ 0x0FFF#16 ≠ 0x00E0#16 ∧ 0x0FFF#16 ≠ 0x00EE#16 := by decide

/-- A state whose `pc` is the last fetchable address, where `1234` stands. -/
def atEnd (q : List HostRequest) : State :=
  { State.reset with pc := 0xFFE#16, mem := [(0xFFE, 0x12#8), (0xFFF, 0x34#8)], hostQueue := q }

theorem witness_StepRunsTheDecodedInstruction :
    ∀ q ∈ [[], [HostRequest.step 1#16 2#8, .tick]],
      (atEnd q).fault = .none ∧ (atEnd q).pc.toNat + 1 < 4096 ∧
      decode [(atEnd q).byteAt (atEnd q).pc.toNat, (atEnd q).byteAt ((atEnd q).pc.toNat + 1)]
        = .instr (.jp 0x234#12) [] ∧ (atEnd q).hostQueue = q := by decide +kernel
theorem witness_EmptyQueueDrawsTicksThenStep : State.reset.hostQueue = [] := rfl
theorem witness_FetchPastEndHalts :
    start.hostQueue = [.step 0#16 0#8] ∧ start.fault = .none ∧
    4095 ≤ ({ start with pc := 0xFFF#16 } : State).pc.toNat ∧
    4095 ≤ ({ start with pc := 0xFFFF#16 } : State).pc.toNat := ⟨rfl, rfl, by decide, by decide⟩
theorem witness_HaltedBlockIsFrozen (p : ResetInputs) :
    ({ start with fault := .fetchOob } : State).fault ≠ .none ∧ HostRequest.step 0#16 0#8 ≠ .rst p ∧
      HostRequest.tick ≠ .rst p := by refine ⟨by decide, ?_, ?_⟩ <;> intro h <;> cases h
theorem witness_TickCountsDown :
    ∀ f ∈ [FaultCode.none, .memOob], ({ State.reset with fault := f, hostQueue := [.tick] } : State).hostQueue =
      .tick :: [] := by intros; rfl
theorem witness_TicksNeverUnderflow :
    ({ State.reset with hostQueue := List.replicate 256 .tick ++ [.step 0#16 0#8] } : State).fault = .none := rfl
theorem witness_FaultsArePrecise :
    start.fault = .none ∧ start.sp.toNat ≤ 16 ∧ faultOf .cls start = .none ∧ faultOf .ret start = .stackUnderflow ∧
    faultOf (.call 0#12) { start with sp := 15#5 } = .none ∧
    faultOf (.call 0#12) { start with sp := 16#5 } = .stackOverflow ∧
    faultOf (.drw 0#4 0#4 1#4) { start with i := 0xFFF#16 } = .none ∧
    faultOf (.drw 0#4 0#4 2#4) { start with i := 0xFFF#16 } = .memOob ∧
    faultOf (.ldB 0#4) { start with i := 0xFFD#16 } = .none ∧
    faultOf (.ldB 0#4) { start with i := 0xFFE#16 } = .memOob ∧
    faultOf (.ldMemVx 15#4) { start with i := 0xFF0#16 } = .none ∧
    faultOf (.ldMemVx 15#4) { start with i := 0xFF1#16 } = .memOob ∧
    faultOf (.ldVxMem 0#4) { start with i := 0xFFF#16 } = .none ∧
    faultOf (.ldVxMem 1#4) { start with i := 0xFFF#16 } = .memOob := by decide +kernel
theorem witness_StepKeepsInvariant : Invariant start ∧ ∃ t, step start = .next t :=
  ⟨⟨by decide, by decide, by decide, by decide, by decide⟩, _, rfl⟩
theorem witness_StepKeepsInvariant_highest :
    Invariant { start with i := 0xFFF#16, pc := 0x10FE#16, sp := 16#5, stack := Vector.replicate 16 0x1000#16 } :=
  ⟨by decide, by decide, by decide, by decide, by decide⟩
theorem witness_StepNeverStops : Invariant State.reset := ⟨by decide, by decide, by decide, by decide, by decide⟩
theorem witness_StrapsChangeOnlyAtReset :
    (∀ p rest, start.hostQueue ≠ .rst p :: rest) ∧ ∃ t, step start = .next t :=
  ⟨fun _ _ h => HostRequest.noConfusion (List.cons.inj h).1, _, rfl⟩
theorem witness_ResetMemoryContents :
    ∀ p ∈ [(0x000, 0#8), (0x04F, 0#8), (0x050, 0x11#8), (0x09F, 0x11#8), (0x0A0, 0#8), (0x1FF, 0#8),
      (0x200, 0xA5#8), (0xFFF, 0#8)], p.1 < 4096 ∧ (State.powerOn inputs).byteAt p.1 = p.2 := by decide +kernel
theorem witness_ResetLeavesResetValues :
    ({ State.reset with fault := .memOob, hostQueue := [.rst inputs] } : State).hostQueue = .rst inputs :: [] := rfl
theorem witness_ResetIsTheDefaultPowerOn :
    ∃ p : ResetInputs, p.image = [] ∧ p.font.toList = defaultFont ∧ p.qShift = false ∧ p.qJump = false ∧
      p.qIndex = false :=
  ⟨⟨[], ⟨defaultFont.toArray, by decide⟩, false, false, false⟩, rfl, by decide, rfl, rfl, rfl⟩
theorem witness_CanonicalMemoryIsUnique :
    Memory.wf [(0, 1#8), (0xFFF, 1#8)] = true ∧
    Memory.wf (Memory.write [(0xFFF, 1#8)] 0 1#8) = true ∧
    ∀ a, a < 4096 → Memory.read [(0, 1#8), (0xFFF, 1#8)] a = Memory.read (Memory.write [(0xFFF, 1#8)] 0 1#8) a :=
  ⟨by decide, by decide, fun _ _ => rfl⟩
theorem witness_OnlyStoresChangeMemory :
    storesMemory (.ldVxMem 15#4) = false ∧ ∃ t, exec (.ldVxMem 15#4) start = .next t := ⟨rfl, _, rfl⟩
theorem witness_OthersIgnoreMemory : accessesMemory (.ldF 15#4) = false := rfl
theorem witness_StoreIsSeenByTheNextFetch :
    Memory.wf State.reset.mem = true ∧
    ∀ s ∈ [{ State.reset with i := 0xFFE#16, pc := 0xFFE#16 }, { State.reset with i := 0x200#16, pc := 0x200#16 }],
      s.i.toNat + (1#4).toNat < 4096 ∧ s.i.toNat ≤ s.pc.toNat ∧ s.pc.toNat + 1 ≤ s.i.toNat + (1#4).toNat := by
  decide +kernel
theorem witness_OthersIgnoreDisplay : usesDisplay .ret = false ∧ usesDisplay (.ldVxMem 0#4) = false := by decide
theorem witness_OthersIgnoreStack : usesStack .cls = false ∧ usesStack (.jp 0#12) = false := by decide
theorem witness_OthersIgnoreKeysTimersRandom :
    usesKeys (.rnd 0#4 0#8) = false ∧ usesDelay (.ldStVx 0#4) = false ∧ usesSound (.ldDtVx 0#4) = false ∧
    usesRandom (.ldVxK 0#4) = false := by decide
theorem witness_IndexWritersAndRange :
    writesIndex (.ldVxMem 15#4) = false ∧ writesIndex (.ldI 0xFFF#12) = true ∧
    ({ start with i := 0xFFF#16 } : State).i.toNat ≤ 0xFFF ∧
    (∃ t, exec (.ldVxMem 15#4) start = .next t) ∧ ∃ t, exec (.ldI 0xFFF#12) { start with i := 0xFFF#16 } = .next t :=
  ⟨rfl, rfl, by decide, ⟨_, rfl⟩, ⟨_, rfl⟩⟩
theorem witness_RegistersChangeOnlyAsDestinationOrFlag :
    isDestination 14#4 (.addReg 1#4 2#4) = false ∧ isDestination 15#4 (.orReg 1#4 2#4) = false ∧
    writesFlag (.orReg 1#4 2#4) = false ∧ isDestination 4#4 (.ldVxMem 3#4) = false ∧
    isDestination 3#4 (.ldVxMem 3#4) = true ∧ (∃ t, exec (.addReg 1#4 2#4) start = .next t) ∧
    (∃ t, exec (.orReg 1#4 2#4) start = .next t) ∧ ∃ t, exec (.ldVxMem 3#4) start = .next t :=
  ⟨rfl, rfl, rfl, rfl, rfl, ⟨_, rfl⟩, ⟨_, rfl⟩, ⟨_, rfl⟩⟩
theorem witness_NoInstructionWritesKeysStrapsPorts : ∃ t, exec .cls start = .next t := ⟨_, rfl⟩

/-! A clause whose condition is on operands only is met at these boundary values, with the outcome of the rule. -/

theorem witness_JumpSetsPc : ok (exec (.jp 0xFFF#12) start) (fun t => t.fetchFaults) = true ∧
    ok (exec (.jp 0xFFE#12) start) (fun t => !t.fetchFaults) = true := by decide +kernel
theorem witness_JumpWithOffset :
    ok (exec (.jpV0 0xF00#12) (withRegs start [(0, 0xFF)])) (fun t => t.pc == 0xFFF#16 && t.fetchFaults) = true ∧
    ok (exec (.jpV0 0xF00#12) (withRegs { start with qJump := true } [(15, 0xFE)]))
      (fun t => t.pc == 0xFFE#16 && !t.fetchFaults) = true := by decide +kernel
theorem witness_CompareAndSkip :
    ok (exec (.seImm 0#4 0#8) start) (fun t => t.pc == 0x202#16) = true ∧
    ok (exec (.seImm 0#4 1#8) start) (fun t => t.pc == 0x200#16) = true ∧
    ok (exec (.sneReg 0#4 1#4) (withRegs start [(1, 1)])) (fun t => t.pc == 0x202#16) = true ∧
    ok (exec (.seReg 15#4 0#4) (withRegs start [(15, 1)])) (fun t => t.pc == 0x200#16) = true := by decide +kernel
theorem witness_CallPushesAndJumps :
    ({ start with sp := 0#5 } : State).sp.toNat < 16 ∧ ({ start with sp := 15#5 } : State).sp.toNat < 16 ∧
    ({ start with sp := 16#5 } : State).sp.toNat = 16 := by decide
theorem witness_ReturnPops :
    0 < ({ start with sp := 1#5 } : State).sp.toNat ∧ ({ start with sp := 16#5 } : State).sp.toNat ≤ 16 ∧
    start.sp.toNat = 0 := by decide
theorem witness_CallThenReturn : ({ start with sp := 15#5 } : State).sp.toNat < 16 := by decide
theorem witness_AddWithCarry :
    (14#4 : Nibble) ≠ 15#4 ∧ ¬ 255 < (0#8).toNat + (255#8).toNat ∧ 255 < (1#8).toNat + (255#8).toNat := by decide
theorem witness_SubtractNoBorrow :
    (14#4 : Nibble) ≠ 15#4 ∧ (7#8).toNat ≤ (7#8).toNat ∧ ¬ (8#8).toNat ≤ (7#8).toNat := by decide
theorem witness_ShiftRight_vf :
    ok (exec (.shr 15#4 2#4) (withRegs { start with qShift := true } [(2, 7)])) (fun t => t.readV 15#4 == 0#8)
      = true ∧ (14#4 : Nibble) ≠ 15#4 := by decide +kernel
theorem witness_ShiftLeft_vf :
    ok (exec (.shl 15#4 2#4) (withRegs start [(15, 0x7F)])) (fun t => t.readV 15#4 == 0#8) = true ∧
    ok (exec (.shl 15#4 2#4) (withRegs start [(15, 0x80)])) (fun t => t.readV 15#4 == 2#8) = true ∧
    (14#4 : Nibble) ≠ 15#4 := by decide +kernel
theorem witness_AddToIndex :
    4096 ≤ (0xFFF#16).toNat + (1#8).toNat ∧ (0xFFF#16).toNat + (0#8).toNat < 4096 ∧
    (Config.fx1eVfElse = .clear ∨ Config.fx1eVfElse = .keep) :=
  ⟨by decide, by decide, match Config.fx1eVfElse with | .clear => .inl rfl | .keep => .inr rfl⟩
theorem witness_StoreDecimalDigits :
    Memory.wf start.mem = true ∧ ({ start with i := 0xFFD#16 } : State).i.toNat + 2 < 4096 ∧
    4096 ≤ ({ start with i := 0xFFE#16 } : State).i.toNat + 2 := by decide
theorem witness_StoreRegisters :
    Memory.wf start.mem = true ∧ ({ start with i := 0xFF0#16 } : State).i.toNat + (15#4).toNat < 4096 ∧
    ({ start with i := 0xFFF#16 } : State).i.toNat + (0#4).toNat < 4096 ∧
    4096 ≤ ({ start with i := 0xFF1#16 } : State).i.toNat + (15#4).toNat := by decide
theorem witness_LoadRegisters :
    ({ start with i := 0xFF0#16 } : State).i.toNat + (15#4).toNat < 4096 ∧
    4096 ≤ ({ start with i := 0xFFF#16 } : State).i.toNat + (1#4).toNat := by decide
theorem witness_StoreThenLoadRestores :
    Memory.wf start.mem = true ∧ ({ start with i := 0xFF0#16 } : State).i.toNat + (15#4).toNat < 4096 := by decide
theorem witness_DrawXorsTheClippedSprite :
    (0 < (1#4).toNat → ({ start with i := 0xFFF#16 } : State).i.toNat + (1#4).toNat - 1 < 4096) ∧
    (0 < (0#4).toNat → ({ start with i := 0xFFFF#16 } : State).i.toNat + (0#4).toNat - 1 < 4096) ∧
    (0 < (15#4).toNat → ({ start with i := 0xFF1#16 } : State).i.toNat + (15#4).toNat - 1 < 4096) := by decide
theorem witness_DrawOutOfRangeFaults :
    0 < (2#4).toNat ∧ 4096 ≤ ({ start with i := 0xFFF#16 } : State).i.toNat + (2#4).toNat - 1 := by decide
theorem witness_DrawTwiceRestores :
    (0 < (15#4).toNat → ({ start with i := 0xFF1#16 } : State).i.toNat + (15#4).toNat - 1 < 4096) ∧
    spriteBit (withBytes { start with i := 0x300#16 } 0x300 [0x80#8]) 1 63 31 31 63 = true ∧
    pixel start.disp 31 63 = false := by decide +kernel
theorem witness_KeySkips :
    ok (exec (.skp 0#4) (withRegs { start with key := 0x8000#16 } [(0, 15)])) (fun t => t.pc == 0x202#16) = true ∧
    ok (exec (.skp 0#4) (withRegs { start with key := 0xFFFF#16 } [(0, 16)])) (fun t => t.pc == 0x200#16) = true := by
  decide +kernel
theorem witness_KeyWait :
    (∀ k, k < 16 → (0#16).getLsbD k = false) ∧
    ∀ p ∈ [(0x0001#16, 0), (0x8000#16, 15), (0xFFFF#16, 0)],
      p.2 < 16 ∧ p.1.getLsbD p.2 = true ∧ ∀ j, j < p.2 → p.1.getLsbD j = false := by decide

end Sys2Proof.Tests
end

/-! PROOFS. Family 10_state.md: what an instruction and a step can do, said once, and the statements about the
invariant, the reset and the writers of the state that follow from it. -/

namespace Sys2Proof.Machine

/-! ## The registers an instruction may write (10_state.md R11, R12) -/

/-- `V[y]` is a destination of the instruction, or the flag of an instruction that writes the flag. -/
def MayWriteV (i : Instr) (y : Nibble) : Prop := isDestination y i = true ∨ (y = 15#4 ∧ writesFlag i = true)

theorem sameVExcept_refl (P : Nibble → Prop) (s : State) : SameVExcept P s s := fun _ _ => rfl

/-- One more write, of a register of the set, keeps the frame. -/
theorem SameVExcept.writeV {P : Nibble → Prop} {s t : State} {x : Nibble} (b : Byte) (h : SameVExcept P s t)
    (hx : P x) : SameVExcept P s (t.writeV x b) := fun y hy => by
  have hne : y ≠ x := fun e => hy (e ▸ hx)
  exact (readV_writeV_other t b hne).trans (h y hy)

theorem writeV_frame {i : Instr} {x : Nibble} (s : State) (b : Byte) (hx : isDestination x i = true) :
    SameVExcept (MayWriteV i) s (s.writeV x b) := (sameVExcept_refl _ s).writeV b (.inl hx)

theorem writeFlag_frame {i : Instr} (s : State) (b : Byte) (hf : writesFlag i = true) :
    SameVExcept (MayWriteV i) s (s.writeFlag b) := (sameVExcept_refl _ s).writeV b (.inr ⟨rfl, hf⟩)

theorem resultThenFlag_frame {i : Instr} {x : Nibble} (s : State) (r f : Byte) (hx : isDestination x i = true)
    (hf : writesFlag i = true) : SameVExcept (MayWriteV i) s (s.resultThenFlag x r f) :=
  (writeV_frame s r hx).writeV f (.inr ⟨rfl, hf⟩)

/-- A shift: the source is copied to `V[x]`, then the flag and the result are written. -/
theorem shift_frame {i : Instr} {x : Nibble} (s : State) (b : Byte) (f r : Byte → Byte)
    (hx : isDestination x i = true) (hf : writesFlag i = true) :
    SameVExcept (MayWriteV i) s ((s.writeV x b).flagThenResult x f r) :=
  ((writeV_frame s b hx).writeV _ (.inr ⟨rfl, hf⟩)).writeV _ (.inl hx)

theorem loadRegs_frame (s : State) (base : Nat) (x : Nibble) :
    SameVExcept (MayWriteV (.ldVxMem x)) s (s.loadRegs base (x.toNat + 1)) := fun y hy => by
  have hlt : ¬ y.toNat < x.toNat + 1 := fun h => hy (.inl (decide_eq_true (Nat.le_of_lt_succ h)))
  rw [readV_loadRegs, if_neg hlt]

/-! ## The values an instruction gives `I` and `pc` (10_state.md R13, R14) -/

/-- `I` stays, or a writer of `I` gives it a value of 12 bits. -/
def IndexMove (i : Instr) (s : State) (w : Word) : Prop := w = s.i ∨ (writesIndex i = true ∧ w.toNat ≤ 0xFFF)

/-- Where `pc` goes but for a return: the next instruction, one past it, back to this one, or a jump's target,
which is at most `0xFFF + 0xFF` (40_control_flow.md R88). -/
def CounterMove (s : State) (a : Word) : Prop :=
  a = s.pc ∨ a = s.pc + 2#16 ∨ a = s.pc - 2#16 ∨ a.toNat ≤ 0x10FE

theorem indexMove_masked {i : Instr} (s : State) (n : Nat) (hi : writesIndex i = true) :
    IndexMove i s (BitVec.ofNat 16 (n % 0x1000)) := .inr ⟨hi, by rw [BitVec.toNat_ofNat]; omega⟩

theorem indexMove_advanceIndex (s t : State) (x : Nibble) (k : Nat) (h : t.i = s.i) :
    IndexMove (.ldMemVx x) s (t.advanceIndex k).i := by
  unfold State.advanceIndex
  split
  · exact indexMove_masked s _ rfl
  · exact .inl h

theorem counterMove_skip (s : State) (c : Bool) : CounterMove s (s.skipIf c).pc := by
  cases c
  · exact .inl rfl
  · exact .inr (.inl rfl)

theorem toNat_addrWord (nnn : Addr) : (addrWord nnn).toNat = nnn.toNat := by
  have := nnn.isLt
  rw [addrWord, BitVec.toNat_setWidth]
  omega

theorem counterMove_addrWord (s : State) (nnn : Addr) : CounterMove s (addrWord nnn) := by
  have := nnn.isLt
  exact .inr (.inr (.inr (by rw [toNat_addrWord]; omega)))

theorem counterMove_offset (s : State) (nnn : Addr) (b : Byte) :
    CounterMove s (addrWord nnn + b.setWidth 16) := by
  have := nnn.isLt
  have := b.isLt
  exact .inr (.inr (.inr (by rw [BitVec.toNat_add, toNat_addrWord, BitVec.toNat_setWidth]; omega)))

theorem counterMove_wait (s : State) (c : Prop) [Decidable c] :
    CounterMove s (if c then s.pc - 2#16 else s.pc) := by
  split
  · exact .inr (.inr (.inl rfl))
  · exact .inl rfl

/-! ## What an instruction can do -/

/-- The next states of an instruction: each form names the fields that change, and what bounds the change. -/
inductive ExecEffect (i : Instr) (s : State) : State → Prop
  /-- a fault: nothing but the latch (60_exceptions.md R168, R169) -/
  | raise (c : FaultCode) : ExecEffect i s (s.raise c)
  /-- general registers, `I` and `pc`, or nothing at all -/
  | registers (v : Vector Byte 16) (w a : Word) (hv : SameVExcept (MayWriteV i) s { s with v := v })
      (hw : IndexMove i s w) (ha : CounterMove s a) : ExecEffect i s { s with v := v, i := w, pc := a }
  /-- the timers -/
  | timers (dt st : Byte) : ExecEffect i s { s with dt := dt, st := st }
  /-- the display, and the flag of a drawing -/
  | display (v : Vector Byte 16) (d : Display) (dirty : Bool) (hd : usesDisplay i = true)
      (hv : SameVExcept (MayWriteV i) s { s with v := v }) :
      ExecEffect i s { s with v := v, disp := d, dirty := dirty }
  /-- bytes stored at `I` inside memory, and the index update -/
  | store (bytes : List Byte) (w : Word) (hs : storesMemory i = true)
      (hb : s.i.toNat + bytes.length ≤ memSize) (hw : IndexMove i s w) :
      ExecEffect i s { s with mem := Memory.writeList s.mem s.i.toNat bytes, i := w }
  /-- a call with room on the stack -/
  | call (a : Word) (hi : usesStack i = true) (hd : s.sp.toNat < 16) (ha : CounterMove s a) :
      ExecEffect i s { s with stack := s.stack.set s.sp.toNat s.pc hd, sp := s.sp + 1#5, pc := a }
  /-- a return with an entry on the stack -/
  | ret (hi : usesStack i = true) (hp : 0 < s.sp.toNat) (hd : s.sp.toNat - 1 < 16) :
      ExecEffect i s { s with sp := s.sp - 1#5, pc := s.stack[s.sp.toNat - 1] }

namespace ExecEffect

theorem nothing {i : Instr} (s : State) : ExecEffect i s s :=
  .registers s.v s.i s.pc (sameVExcept_refl _ s) (.inl rfl) (.inl rfl)

theorem onlyV {i : Instr} {s : State} {v : Vector Byte 16}
    (hv : SameVExcept (MayWriteV i) s { s with v := v }) : ExecEffect i s { s with v := v } :=
  .registers v s.i s.pc hv (.inl rfl) (.inl rfl)

theorem onlyPc {i : Instr} {s : State} {a : Word} (ha : CounterMove s a) : ExecEffect i s (s.jump a) :=
  .registers s.v s.i a (sameVExcept_refl _ s) (.inl rfl) ha

theorem onlyIndex {i : Instr} (s : State) (n : Nat) (hi : writesIndex i = true) : ExecEffect i s (s.writeI n) :=
  .registers s.v _ s.pc (sameVExcept_refl _ s) (indexMove_masked s n hi) (.inl rfl)

/-- An instruction that checks its byte range first: the fault, or what it does when the range is in memory. -/
theorem checked {i : Instr} {s t : State} {len : Nat}
    (h : (0 < len → s.i.toNat + len ≤ memSize) → ExecEffect i s t) :
    ExecEffect i s (if s.dataFaults len then s.raise .memOob else t) := by
  split
  · exact .raise _
  · have hlen := (dataFaults_eq_false s len).mp (Bool.not_eq_true _ |>.mp ‹_›)
    exact h fun hpos => by have := hlen hpos; rw [memSize]; omega

end ExecEffect

theorem callTo_effect {s t : State} {nnn : Addr} (h : s.callTo (addrWord nnn) = .next t) :
    ExecEffect (.call nnn) s t := by
  obtain ⟨-, he⟩ | ⟨hlt, he⟩ | ⟨-, he⟩ := callTo_cases s (addrWord nnn) <;> cases he.symm.trans h
  · exact .raise _
  · exact .call _ rfl hlt (counterMove_addrWord s nnn)

theorem popPc_effect {s t : State} (h : s.popPc = .next t) : ExecEffect .ret s t := by
  obtain ⟨-, he⟩ | ⟨hpos, hd, he⟩ | ⟨-, he⟩ := popPc_cases s <;> cases he.symm.trans h
  · exact .raise _
  · exact .ret rfl hpos hd

/-- What an instruction can do when it answers a next state, by its constructor. -/
theorem exec_effect {i : Instr} {s t : State} (h : exec i s = .next t) : ExecEffect i s t := by
  cases i with
  | call nnn => exact callTo_effect h
  | ret => exact popPc_effect h
  | sys | reserved5 | reserved8 | reserved9 | reservedE | reservedF => cases h; exact .nothing s
  | jp nnn => cases h; exact .onlyPc (counterMove_addrWord s nnn)
  | jpV0 nnn => cases h; exact .onlyPc (counterMove_offset s nnn _)
  | seImm | sneImm | seReg | sneReg | skp | sknp => cases h; exact .onlyPc (counterMove_skip s _)
  | ldImm x | addImm x | ldReg x | orReg x | andReg x | xorReg x | rnd x | ldVxDt x =>
    cases h
    exact .onlyV (writeV_frame s _ (beq_self_eq_true x))
  | addReg x | subReg x | subn x => cases h; exact .onlyV (resultThenFlag_frame s _ _ (beq_self_eq_true x) rfl)
  | shr x y =>
    cases h
    exact .onlyV (shift_frame s (s.shiftSource x y) bottomBit (fun t => t >>> 1) (beq_self_eq_true x) rfl)
  | shl x y =>
    cases h
    exact .onlyV (shift_frame s (s.shiftSource x y) topBit (fun t => t <<< 1) (beq_self_eq_true x) rfl)
  | ldVxK x =>
    cases h
    exact .registers _ s.i _ (writeV_frame s _ (beq_self_eq_true x)) (.inl rfl) (counterMove_wait s _)
  | ldDtVx x => cases h; exact .timers _ s.st
  | ldStVx x => cases h; exact .timers s.dt _
  | ldI | ldF => cases h; exact .onlyIndex s _ rfl
  | addI x =>
    cases h
    exact .registers _ _ s.pc (writeFlag_frame s _ rfl) (indexMove_masked s _ rfl) (.inl rfl)
  | cls => cases h; exact .display s.v blankDisplay true rfl (sameVExcept_refl _ s)
  | drw x y n => cases h; exact .checked fun _ => .display _ _ _ rfl (writeFlag_frame s _ rfl)
  | ldB x => cases h; exact .checked fun hb => .store _ s.i rfl (hb (by decide)) (.inl rfl)
  | ldMemVx x =>
    cases h
    refine .checked fun hb => .store _ _ rfl ?_ (indexMove_advanceIndex s (s.store _ _) x _ rfl)
    have hlen := hb (Nat.succ_pos _)
    rw [length_regBytes]
    omega
  | ldVxMem x => cases h; exact .checked fun _ => .onlyV (loadRegs_frame s _ x)

/-! ## The writers of registers, of `I`, of keys, straps and ports (10_state.md R11, R12, R13, R19, R22, R27) -/

/-- Settles O29, by the frame of general registers that every effect carries. -/
theorem registersChangeOnlyAsDestinationOrFlag : Obligations.RegistersChangeOnlyAsDestinationOrFlag := by
  intro i s t y h hdest hflag
  have hy : ¬ MayWriteV i y := by
    rintro (hd | ⟨he, hf⟩)
    · exact absurd (hdest.symm.trans hd) (by decide)
    · exact absurd ((hflag he).symm.trans hf) (by decide)
  cases exec_effect h with
  | registers v w a hv hw ha => exact hv y hy
  | display v d dirty hd hv => exact hv y hy
  | raise | timers | store | call | ret => rfl

/-- An effect moves `I` as its instruction may. -/
theorem ExecEffect.indexMove {i : Instr} {s t : State} (h : ExecEffect i s t) : IndexMove i s t.i := by
  cases h with
  | registers v w a hv hw ha => exact hw
  | store bytes w hs hb hw => exact hw
  | raise | timers | display | call | ret => exact .inl rfl

/-- Settles O28: `I` stays or takes a masked value, the latter by a writer of `I` only. -/
theorem indexWritersAndRange : Obligations.IndexWritersAndRange := by
  intro i s t h
  obtain he | ⟨hi, hle⟩ := (exec_effect h).indexMove
  · exact ⟨fun _ => he, fun hs => he ▸ hs⟩
  · exact ⟨fun hn => absurd (hn.symm.trans hi) (by decide), fun _ => hle⟩

/-- Settles O30: no form of effect names the key latch, a strap, a port or a field of the host's. -/
theorem noInstructionWritesKeysStrapsPorts : Obligations.NoInstructionWritesKeysStrapsPorts := by
  intro i s t h
  cases exec_effect h <;> exact ⟨rfl, rfl, rfl, rfl, rfl, rfl, rfl, rfl⟩

/-! ## What a step can do -/

/-- Nothing but the timers, the ports and the host's requests differs. -/
def OnlyHostAndTimers (s t : State) : Prop :=
  t = { s with
    dt := t.dt, st := t.st, keysIn := t.keysIn, randIn := t.randIn, hostQueue := t.hostQueue, hostTime := t.hostTime }

theorem tick_onlyHostAndTimers (s : State) (rest : List HostRequest) :
    OnlyHostAndTimers s { s with hostQueue := rest }.tick := by
  unfold OnlyHostAndTimers State.tick
  split <;> rfl

theorem ticks_onlyTimers (k : Nat) (s : State) :
    s.ticks k = { s with dt := (s.ticks k).dt, st := (s.ticks k).st } := by
  unfold State.ticks
  split <;> rfl

theorem drawRequest_onlyHostAndTimers (s : State) : OnlyHostAndTimers s s.drawRequest := by
  unfold OnlyHostAndTimers State.drawRequest
  rw [ticks_onlyTimers]
  rfl

/-- The next states of a step: the reset transition of the oldest request, or what the host presents, as it is
or with one cycle performed. -/
theorem step_effect {s t : State} (h : step s = .next t) :
    (∃ p rest, s.hostQueue = .rst p :: rest ∧ t = { s with hostQueue := rest }.resetWith p) ∨
    ∃ f, OnlyHostAndTimers s f ∧ (t = f ∨ cycle f = .next t) := by
  obtain ⟨-, he⟩ | ⟨r, rest, hq, he⟩ := step_cases s
  · exact .inr ⟨s.drawRequest, drawRequest_onlyHostAndTimers s, .inr (he.symm.trans h)⟩
  · have hp := he.symm.trans h
    cases r with
    | step k b => exact .inr ⟨State.present { s with hostQueue := rest } k b, rfl, .inr hp⟩
    | tick => cases hp; exact .inr ⟨_, tick_onlyHostAndTimers s rest, .inl rfl⟩
    | rst p => cases hp; exact .inl ⟨p, rest, hq, rfl⟩

/-- The next states of a cycle: the halted block, the fault of the fetch, or the effect of an instruction on the
state that the fetch of two bytes left. -/
theorem cycle_effect {s t : State} (h : cycle s = .next t) :
    t = s ∨ t = s.beginCycle.raise .fetchOob ∨
    (s.pc.toNat + 1 < 4096 ∧ ∃ i, exec i s.beginCycle.advancePc = .next t) := by
  obtain ⟨-, he⟩ | ⟨-, -, he⟩ | ⟨-, hpc, he⟩ := cycle_cases s
  · cases he.symm.trans h; exact .inl rfl
  · cases he.symm.trans h; exact .inr (.inl rfl)
  · exact .inr (.inr ⟨hpc, _, he.symm.trans h⟩)

/-! ## The straps (10_state.md R22) -/

/-- The three straps are as before. -/
def SameStraps (s t : State) : Prop := t.qShift = s.qShift ∧ t.qJump = s.qJump ∧ t.qIndex = s.qIndex

theorem SameStraps.trans {s t u : State} (h : SameStraps s t) (h' : SameStraps t u) : SameStraps s u :=
  let ⟨hs, hj, hi⟩ := h
  let ⟨hs', hj', hi'⟩ := h'
  ⟨hs'.trans hs, hj'.trans hj, hi'.trans hi⟩

theorem cycle_sameStraps {s t : State} (h : cycle s = .next t) : SameStraps s t := by
  obtain rfl | rfl | ⟨-, i, hx⟩ := cycle_effect h
  · exact ⟨rfl, rfl, rfl⟩
  · exact ⟨rfl, rfl, rfl⟩
  · obtain ⟨-, hs, hj, hi, -⟩ := noInstructionWritesKeysStrapsPorts i _ t hx
    exact ⟨hs, hj, hi⟩

/-- Settles O17: what the host presents keeps the straps, and so does a cycle. -/
theorem strapsChangeOnlyAtReset : Obligations.StrapsChangeOnlyAtReset := by
  intro s t hrst h
  obtain ⟨p, rest, hq, -⟩ | ⟨f, hf, hc⟩ := step_effect h
  · exact absurd hq (hrst p rest)
  · have hstraps : SameStraps s f := by rw [hf]; exact ⟨rfl, rfl, rfl⟩
    obtain rfl | hc := hc
    · exact hstraps
    · exact hstraps.trans (cycle_sameStraps hc)

/-! ## Reset (10_state.md R30, 70_reset_and_hazards.md R190) -/

theorem wf_resetMem (font : Vector Byte 80) (image : List Byte) :
    Memory.wf (resetMem font.toList image) = true := by
  have hfont : fontBase + font.toList.length ≤ memSize := by rw [Vector.length_toList]; decide
  have himage : progBase + (image.take imageMax).length ≤ memSize :=
    Nat.add_le_add_left (List.length_take_le imageMax image) progBase
  exact writeList_keeps_wf himage (writeList_keeps_wf hfont wf_nil)

/-- Settles O13, field by field. -/
theorem invariantAtReset : Obligations.InvariantAtReset where
  mem := wf_nil
  index := by decide
  counter := by decide
  depth := by decide
  slots k h := by simp [State.reset]

/-- Settles O14: reset differs from `State.reset` in the straps and in memory, which is canonical. -/
theorem invariantAfterPowerOn : Obligations.InvariantAfterPowerOn := fun p =>
  { invariantAtReset with mem := wf_resetMem p.font p.image }

/-- Settles O19: the step is the reset transition, which takes every element from `State.powerOn`. -/
theorem resetLeavesResetValues : Obligations.ResetLeavesResetValues := by
  intro s p rest hq
  have hstep : step s = .next ({ s with hostQueue := rest }.resetWith p) := by
    rw [step, hostStep, hq]
    rfl
  refine ⟨_, hstep, fun x => ?_, rfl, rfl, rfl, fun k h => ?_, rfl, rfl, rfl, fun r c => ?_, rfl, rfl, rfl, rfl,
    rfl, rfl, fun a => rfl⟩
  · exact Vector.getElem_replicate x.isLt
  · exact Vector.getElem_replicate h
  · exact pixel_blankDisplay r c

/-- Bytes equal to what unlisted addresses read as leave the empty memory empty. -/
theorem writeList_nil_of_blank {bs : List Byte} {base : Nat}
    (h : ∀ k (hk : k < bs.length), bs[k] = Memory.blank (base + k)) : Memory.writeList [] base bs = [] := by
  induction bs generalizing base with
  | nil => rfl
  | cons b rest ih =>
    have hb : b = Memory.blank base := h 0 (Nat.zero_lt_succ _)
    rw [Memory.writeList, Memory.write, Memory.put, if_pos hb]
    refine ih fun k hk => ?_
    rw [Nat.add_assoc, Nat.add_comm 1]
    exact h (k + 1) (Nat.succ_lt_succ hk)

theorem resetMem_defaultFont : resetMem defaultFont [] = [] := by
  have hfont : Memory.writeList [] fontBase defaultFont = [] := writeList_nil_of_blank fun k hk => by
    rw [Memory.blank, if_pos (Nat.le_add_right fontBase k), Nat.add_sub_cancel_left,
      List.getD_eq_getElem _ _ hk]
  rw [resetMem, hfont, List.take_nil]
  rfl

/-- Settles O20: the default font is what unlisted addresses read as, so memory is the empty list. -/
theorem resetIsTheDefaultPowerOn : Obligations.ResetIsTheDefaultPowerOn := by
  intro p himage hfont hshift hjump hindex
  rw [State.powerOn, himage, hfont, hshift, hjump, hindex, resetMem_defaultFont]
  rfl

/-! ## The invariant along a step (10_state.md R26) -/

/-- A move of `pc` from the end of a fetched instruction stays in the range of R14. -/
theorem CounterMove.le {s : State} {a : Word} (h : CounterMove s a) (hlo : 2 ≤ s.pc.toNat)
    (hhi : s.pc.toNat ≤ 0x1000) : a.toNat ≤ 0x10FE := by
  obtain rfl | rfl | rfl | h := h
  · omega
  · rw [BitVec.toNat_add, BitVec.toNat_ofNat]; omega
  · rw [BitVec.toNat_sub, BitVec.toNat_ofNat]; omega
  · exact h

theorem IndexMove.le {i : Instr} {s : State} {w : Word} (h : IndexMove i s w) (hs : s.i.toNat ≤ 0xFFF) :
    w.toNat ≤ 0xFFF := by
  obtain rfl | ⟨-, h⟩ := h
  · exact hs
  · exact h

/-- A pushed return address of at most 0x1000 keeps the bound on the slots. -/
theorem slots_set {stack : Vector Word 16} {a : Word} {d : Nat} (hd : d < 16)
    (hs : ∀ k (h : k < 16), stack[k].toNat ≤ 0x1000) (ha : a.toNat ≤ 0x1000) (k : Nat) (h : k < 16) :
    ((stack.set d a hd)[k]).toNat ≤ 0x1000 := by
  rw [Vector.getElem_set]
  split
  · exact ha
  · exact hs k h

/-- An instruction keeps the invariant from a state that a fetch left. -/
theorem ExecEffect.invariant {i : Instr} {s t : State} (h : ExecEffect i s t) (hs : Invariant s)
    (hlo : 2 ≤ s.pc.toNat) (hhi : s.pc.toNat ≤ 0x1000) : Invariant t := by
  cases h with
  | raise | timers | display => exact { hs with }
  | registers v w a hv hw ha => exact { hs with index := hw.le hs.index, counter := ha.le hlo hhi }
  | store bytes w hi hb hw =>
    exact { hs with mem := writeList_keeps_wf hb hs.mem, index := hw.le hs.index }
  | call a hi hd ha =>
    have hdepth : (s.sp + 1#5).toNat ≤ 16 := by rw [BitVec.toNat_add, BitVec.toNat_ofNat]; omega
    exact { hs with counter := ha.le hlo hhi, depth := hdepth, slots := slots_set hd hs.slots hhi }
  | ret hi hp hd =>
    have hdepth : (s.sp - 1#5).toNat ≤ 16 := by
      have := hs.depth
      rw [BitVec.toNat_sub, BitVec.toNat_ofNat]
      omega
    exact { hs with counter := (hs.slots _ hd).trans (by decide), depth := hdepth }

theorem cycle_keeps_invariant {s t : State} (hs : Invariant s) (h : cycle s = .next t) : Invariant t := by
  obtain rfl | rfl | ⟨hpc, i, hx⟩ := cycle_effect h
  · exact hs
  · exact { hs with }
  · have hfetched : s.beginCycle.advancePc.pc.toNat = s.pc.toNat + 2 := by
      rw [State.advancePc_pc, State.beginCycle_pc, BitVec.toNat_add, BitVec.toNat_ofNat]
      omega
    have hinv : Invariant s.beginCycle.advancePc := { hs with counter := by omega }
    exact (exec_effect hx).invariant hinv (by omega) (by omega)

/-- Settles O15: a reset gives the invariant, what the host presents keeps it, and so does a cycle. -/
theorem stepKeepsInvariant : Obligations.StepKeepsInvariant := by
  intro s t hs h
  obtain ⟨p, rest, -, rfl⟩ | ⟨f, hf, hc⟩ := step_effect h
  · exact { invariantAfterPowerOn p with }
  · have hinv : Invariant f := by rw [hf]; exact { hs with }
    obtain rfl | hc := hc
    · exact hinv
    · exact cycle_keeps_invariant hinv hc

end Sys2Proof.Machine

/-! PROOFS. Family 20_memory.md: the canonical form, the reset contents, the store that the next fetch reads, and
what an instruction does not reach, by one theorem about patched states. -/

namespace Sys2Proof.Machine

/-! ## The canonical form (20_memory.md R40) -/

/-- The first cell of a canonical memory says something: its address does not read as blank. -/
theorem read_head_ne_blank {low : Nat} {c : Host.Cell} {rest : List Host.Cell}
    (hm : Memory.wfFrom low (c :: rest) = true) : Memory.read (c :: rest) c.1 ≠ Memory.blank c.1 := by
  obtain ⟨-, -, hne, -⟩ := wfFrom_cons.mp hm
  rwa [Memory.read, if_pos rfl]

/-- Two canonical memories that read alike cannot begin at different addresses. -/
theorem head_le_of_read_eq {low : Nat} {c c' : Host.Cell} {rest rest' : List Host.Cell}
    (hm : Memory.wfFrom low (c :: rest) = true) (hm' : Memory.wfFrom low (c' :: rest') = true)
    (h : Memory.read (c :: rest) c.1 = Memory.read (c' :: rest') c.1) : c'.1 ≤ c.1 := by
  by_contra hlt
  obtain ⟨-, htail⟩ := wfFrom_cons.mp hm'
  have hblank : Memory.read (c' :: rest') c.1 = Memory.blank c.1 :=
    read_below (wfFrom_cons.mpr ⟨le_rfl, htail⟩) (Nat.lt_of_not_le hlt)
  exact read_head_ne_blank hm (h.trans hblank)

/-- Canonical memories above `low` that read alike there are the same list. -/
theorem eq_of_read_eq {low : Nat} {m m' : List Host.Cell} (hm : Memory.wfFrom low m = true)
    (hm' : Memory.wfFrom low m' = true)
    (h : ∀ a, low ≤ a → a < memSize → Memory.read m a = Memory.read m' a) : m = m' := by
  induction m generalizing low m' with
  | nil =>
    cases m' with
    | nil => rfl
    | cons c' rest' =>
      obtain ⟨hlow, hsize, -⟩ := wfFrom_cons.mp hm'
      exact absurd (h c'.1 hlow hsize).symm (read_head_ne_blank hm')
  | cons c rest ih =>
    obtain ⟨hlow, hsize, -, hrest⟩ := wfFrom_cons.mp hm
    cases m' with
    | nil => exact absurd (h c.1 hlow hsize) (read_head_ne_blank hm)
    | cons c' rest' =>
      obtain ⟨hlow', hsize', -, hrest'⟩ := wfFrom_cons.mp hm'
      have haddr : c'.1 = c.1 := le_antisymm (head_le_of_read_eq hm hm' (h _ hlow hsize))
        (head_le_of_read_eq hm' hm (h _ hlow' hsize').symm)
      have hbyte : c.2 = c'.2 := by simpa [Memory.read, haddr] using h c.1 hlow hsize
      have htail : rest = rest' := ih hrest (haddr ▸ hrest') fun a ha hlt => by
        have hne : c.1 ≠ a := by omega
        simpa [Memory.read, haddr, hne] using h a (by omega) hlt
      rw [Prod.ext haddr.symm hbyte, htail]

/-- Settles O21: the canonical form from address 0 on. -/
theorem canonicalMemoryIsUnique : Obligations.CanonicalMemoryIsUnique :=
  fun _ _ hm hm' h => eq_of_read_eq hm hm' fun a _ => h a

/-! ## Memory after reset (20_memory.md R41, R49) -/

/-- From the base of a store on: the stored byte where there is one, else the byte before. -/
theorem read_writeList_from {bs : List Byte} {base a : Nat} {m : List Host.Cell} (ha : base ≤ a)
    (hlen : base + bs.length ≤ memSize) (hm : Memory.wf m = true) :
    Memory.read (Memory.writeList m base bs) a = bs.getD (a - base) (Memory.read m a) := by
  obtain ⟨k, rfl⟩ := Nat.exists_eq_add_of_le ha
  rw [Nat.add_sub_cancel_left]
  by_cases hk : k < bs.length
  · rw [read_writeList_at hk hlen hm, List.getD_eq_getElem _ _ hk]
  · rw [read_writeList_other (by omega), List.getD_eq_default _ _ (by omega)]

/-- Outside the font region an unlisted address reads as 0. -/
theorem blank_outside_font {a : Nat} (h : a < 0x050 ∨ 0x0A0 ≤ a) : Memory.blank a = 0#8 := by
  unfold Memory.blank
  split
  · have hlen : defaultFont.length = 80 := by decide
    have hbase : 0x050 ≤ a := ‹fontBase ≤ a›
    exact List.getD_eq_default _ _ (by rw [hlen, fontBase]; omega)
  · rfl

theorem font_fits (font : Vector Byte 80) : fontBase + font.toList.length ≤ memSize := by
  rw [Vector.length_toList]
  decide

theorem image_fits (image : List Byte) : progBase + (image.take imageMax).length ≤ memSize :=
  Nat.add_le_add_left (List.length_take_le imageMax image) progBase

/-- After the font store an address of the font region reads as its font byte. -/
theorem read_fontMem_inside (font : Vector Byte 80) {a : Nat} (hlo : 0x050 ≤ a) (hhi : a < 0x0A0) :
    Memory.read (Memory.writeList [] fontBase font.toList) a = font.toList.getD (a - 0x050) 0#8 := by
  have hk : a - fontBase < font.toList.length := by rw [Vector.length_toList, fontBase]; omega
  calc Memory.read (Memory.writeList [] fontBase font.toList) a
    _ = font.toList.getD (a - fontBase) (Memory.blank a) :=
      read_writeList_from hlo (font_fits font) wf_nil
    _ = font.toList.getD (a - fontBase) 0#8 := by rw [List.getD_eq_getElem _ _ hk, List.getD_eq_getElem _ _ hk]

/-- After the font store every address outside the font region reads as 0. -/
theorem read_fontMem_outside (font : Vector Byte 80) {a : Nat} (h : a < 0x050 ∨ 0x0A0 ≤ a) :
    Memory.read (Memory.writeList [] fontBase font.toList) a = 0#8 := by
  rw [read_writeList_other (by rw [Vector.length_toList]; exact h)]
  exact blank_outside_font h

/-- The image store of reset leaves the bytes below the program region alone. -/
theorem read_resetMem_below (font image : List Byte) {a : Nat} (h : a < 0x200) :
    Memory.read (resetMem font image) a = Memory.read (Memory.writeList [] fontBase font) a :=
  read_writeList_other (.inl h)

/-- In the program region reset leaves the image byte where there is one, else 0. -/
theorem read_resetMem_program (font : Vector Byte 80) (image : List Byte) {a : Nat} (hlo : 0x200 ≤ a)
    (hhi : a < 4096) :
    Memory.read (resetMem font.toList image) a = image.getD (a - 0x200) 0#8 := by
  have hk : a - progBase < imageMax := by rw [progBase, imageMax]; omega
  calc Memory.read (resetMem font.toList image) a
    _ = (image.take imageMax).getD (a - progBase) (Memory.read (Memory.writeList [] fontBase font.toList) a) :=
      read_writeList_from hlo (image_fits image) (writeList_keeps_wf (font_fits font) wf_nil)
    _ = image.getD (a - progBase) 0#8 := by
      rw [read_fontMem_outside font (.inr (by omega)), List.getD_eq_getElem?_getD, List.getElem?_take_of_lt hk,
        List.getD_eq_getElem?_getD]

/-- Settles O18, region by region of the map of R41. -/
theorem resetMemoryContents : Obligations.ResetMemoryContents := by
  intro p a ha
  change Memory.read (resetMem p.font.toList p.image) a = _
  split_ifs with hlow hfont hgap
  · rw [read_resetMem_below _ _ (by omega), read_fontMem_outside _ (.inl hlow)]
  · rw [read_resetMem_below _ _ (by omega), read_fontMem_inside _ (by omega) hfont]
  · rw [read_resetMem_below _ _ hgap, read_fontMem_outside _ (.inr (by omega))]
  · exact read_resetMem_program _ _ (by omega) ha

/-! ## The writers of memory (20_memory.md R40) -/

/-- Settles O22: the one effect that names memory is that of an instruction that stores. -/
theorem onlyStoresChangeMemory : Obligations.OnlyStoresChangeMemory := by
  intro i s t hi h
  have hmem : t.mem = s.mem := by
    cases exec_effect h with
    | store bytes w hs hb hw => exact absurd (hi.symm.trans hs) (by decide)
    | raise | registers | timers | display | call | ret => rfl
  exact ⟨hmem, fun a => congrArg (Memory.read · a) hmem⟩

/-! ## A store over the next instruction (20_memory.md R53, 42_index_memory.md R124) -/

/-- Inside memory `Fx55` stores its registers and updates the index. -/
theorem exec_ldMemVx_inside {x : Nibble} {s : State} (h : s.i.toNat + x.toNat < 4096) :
    exec (.ldMemVx x) s = .next ((s.store s.i.toNat (s.regBytes (x.toNat + 1))).advanceIndex x.toNat) := by
  have hok : s.dataFaults (x.toNat + 1) = false := (dataFaults_eq_false s _).mpr fun _ => h
  exact congrArg Host.Outcome.next (if_neg (Bool.not_eq_true _ |>.mpr hok))

/-- Byte `k` of the registers that `Fx55` stores is `V[k]`. -/
theorem store_regBytes_byteAt {x : Nibble} {s : State} {k : Nat} (hm : Memory.wf s.mem = true)
    (h : s.i.toNat + x.toNat < 4096) (hk : k ≤ x.toNat) :
    (s.store s.i.toNat (s.regBytes (x.toNat + 1))).byteAt (s.i.toNat + k) = s.readV (BitVec.ofNat 4 k) := by
  have hx := x.isLt
  have hlen : (s.regBytes (x.toNat + 1)).length = x.toNat + 1 := by rw [length_regBytes]; omega
  have hreg : (BitVec.ofNat 4 k).toNat = k := by rw [BitVec.toNat_ofNat]; omega
  rw [store_byteAt s (by omega) (by rw [hlen, memSize]; omega) hm, getElem_regBytes s _ (by omega)]
  simp only [State.readV, hreg]

/-- Settles O24: the two bytes the fetch joins are two of the stored registers. -/
theorem storeIsSeenByTheNextFetch : Obligations.StoreIsSeenByTheNextFetch := by
  intro x s hm hx hlo hhi
  have hstored {a : Nat} (ha : s.i.toNat ≤ a) (hle : a ≤ s.i.toNat + x.toNat) :
      (s.store s.i.toNat (s.regBytes (x.toNat + 1))).byteAt a = s.readV (BitVec.ofNat 4 (a - s.i.toNat)) := by
    rw [← store_regBytes_byteAt hm hx (by omega), Nat.add_sub_cancel' ha]
  have hhigh := hstored hlo (by omega)
  have hlow := hstored (a := s.pc.toNat + 1) (by omega) hhi
  exact ⟨_, exec_ldMemVx_inside hx, rfl, congrArg₂ joinBytes hhigh hlow⟩

/-! ## What an instruction does not reach (20_memory.md R40, R56, 10_state.md R15) -/

/-- New contents for some of the elements that only named instructions reach; the call stack goes with its
depth. -/
structure Patch where
  mem : Option (List Host.Cell) := none
  disp : Option Display := none
  stack : Option (Vector Word 16 × BitVec 5) := none
  key : Option (BitVec 16) := none
  dt : Option Byte := none
  st : Option Byte := none
  randIn : Option Byte := none

/-- The state with the patched elements replaced. -/
def Patch.apply (p : Patch) (s : State) : State :=
  { s with
    mem := p.mem.getD s.mem
    disp := p.disp.getD s.disp
    stack := (p.stack.getD (s.stack, s.sp)).1
    sp := (p.stack.getD (s.stack, s.sp)).2
    key := p.key.getD s.key
    dt := p.dt.getD s.dt
    st := p.st.getD s.st
    randIn := p.randIn.getD s.randIn }

/-- The patch replaces no element that the instruction reaches. Where the patch leaves an element to the state,
the field is filled in by default. -/
structure Patch.Spares (p : Patch) (i : Instr) : Prop where
  mem : accessesMemory i = true → p.mem = none := by intro _; rfl
  disp : usesDisplay i = true → p.disp = none := by intro _; rfl
  stack : usesStack i = true → p.stack = none := by intro _; rfl
  key : usesKeys i = true → p.key = none := by intro _; rfl
  dt : usesDelay i = true → p.dt = none := by intro _; rfl
  st : usesSound i = true → p.st = none := by intro _; rfl
  randIn : usesRandom i = true → p.randIn = none := by intro _; rfl

/-- The range check reads `I` alone, so a patch of the state and one of the result come to the same. -/
theorem Patch.apply_checked (p : Patch) {s t u : State} (len : Nat) (h : u = p.apply t) :
    (if (p.apply s).dataFaults len then (p.apply s).raise .memOob else u) =
      p.apply (if s.dataFaults len then s.raise .memOob else t) := by
  subst h
  exact (apply_ite p.apply (s.dataFaults len = true) (s.raise .memOob) t).symm

/-- A call of a patched state, the stack not among the patched elements. -/
theorem Patch.apply_callTo {p : Patch} (h : p.stack = none) (s : State) (a : Word) :
    (p.apply s).callTo a = mapNext p.apply (s.callTo a) := by
  obtain ⟨mem, disp, stack, key, dt, st, randIn⟩ := p
  cases h
  simp only [State.callTo, apply_ite (mapNext _), apply_dite (mapNext _)]
  rfl

/-- A return of a patched state, the stack not among the patched elements. -/
theorem Patch.apply_popPc {p : Patch} (h : p.stack = none) (s : State) :
    (p.apply s).popPc = mapNext p.apply s.popPc := by
  obtain ⟨mem, disp, stack, key, dt, st, randIn⟩ := p
  cases h
  simp only [State.popPc, apply_ite (mapNext _), apply_dite (mapNext _)]
  rfl

/-- An instruction does to a state with elements it does not reach replaced what it does without, and leaves
those elements. Past the checked and the stack instructions both sides compute to the same state, once the
elements the instruction reaches are known not to be patched. -/
theorem exec_patch {p : Patch} {i : Instr} (h : p.Spares i) (s : State) :
    exec i (p.apply s) = mapNext p.apply (exec i s) := by
  obtain ⟨mem, disp, stack, key, dt, st, randIn⟩ := p
  cases i with
  | call nnn => exact Patch.apply_callTo (h.stack rfl) s (addrWord nnn)
  | ret => exact Patch.apply_popPc (h.stack rfl) s
  | drw =>
    cases h.mem rfl
    cases h.disp rfl
    exact congrArg Host.Outcome.next (Patch.apply_checked _ _ rfl)
  | ldB | ldMemVx | ldVxMem =>
    cases h.mem rfl
    exact congrArg Host.Outcome.next (Patch.apply_checked _ _ rfl)
  | cls => cases h.disp rfl; rfl
  | skp | sknp | ldVxK => cases h.key rfl; rfl
  | ldVxDt | ldDtVx => cases h.dt rfl; rfl
  | ldStVx => cases h.st rfl; rfl
  | rnd => cases h.randIn rfl; rfl
  | sys | jp | jpV0 | seImm | sneImm | seReg | sneReg | ldImm | addImm | ldReg | orReg | andReg | xorReg | addReg
  | subReg | shr | subn | shl | ldI | addI | ldF | reserved5 | reserved8 | reserved9 | reservedE | reservedF => rfl

/-- An element that the instruction does not reach puts no demand on the patch. -/
theorem unpatched_of_unreached {α : Type} {reached : Bool} {o : Option α} (h : reached = false) :
    reached = true → o = none := fun h' => absurd (h.symm.trans h') (by decide)

/-- Settles O23: a patch of memory. -/
theorem othersIgnoreMemory : Obligations.OthersIgnoreMemory := fun _ s m hi =>
  exec_patch (p := { mem := some m }) { mem := unpatched_of_unreached hi } s

/-- Settles O25: a patch of the display. -/
theorem othersIgnoreDisplay : Obligations.OthersIgnoreDisplay := fun _ s d hi =>
  exec_patch (p := { disp := some d }) { disp := unpatched_of_unreached hi } s

/-- Settles O26: a patch of the call stack and its depth. -/
theorem othersIgnoreStack : Obligations.OthersIgnoreStack := fun _ s k d hi =>
  exec_patch (p := { stack := some (k, d) }) { stack := unpatched_of_unreached hi } s

/-- Settles O27: a patch of the keys, of a timer, of the random byte. -/
theorem othersIgnoreKeysTimersRandom : Obligations.OthersIgnoreKeysTimersRandom := fun _ s =>
  ⟨fun k hi => exec_patch (p := { key := some k }) { key := unpatched_of_unreached hi } s,
    fun b hi => exec_patch (p := { dt := some b }) { dt := unpatched_of_unreached hi } s,
    fun b hi => exec_patch (p := { st := some b }) { st := unpatched_of_unreached hi } s,
    fun b hi => exec_patch (p := { randIn := some b }) { randIn := unpatched_of_unreached hi } s⟩

end Sys2Proof.Machine

/-! PROOFS. Family 30_encoding.md: the fields of the three word formats, the decoder and the encoder as inverses,
the reserved words, and what a step fetches and runs. -/

namespace Sys2Proof

/-! ## The fields of a word and the formats they make up (30_encoding.md R61, R62) -/

section Formats
variable (op x y n : Nibble) (nn : Byte) (nnn : Addr) (w : Word)

theorem wordXnn_eq_wordNnn : wordXnn op x nn = wordNnn op (x ++ nn) := BitVec.append_assoc

theorem wordXyn_eq_wordXnn : wordXyn op x y n = wordXnn op x (y ++ n) := BitVec.append_assoc

@[simp] theorem fieldOp_wordNnn : fieldOp (wordNnn op nnn) = op := BitVec.extractLsb'_append_eq_left

@[simp] theorem fieldNnn_wordNnn : fieldNnn (wordNnn op nnn) = nnn := BitVec.extractLsb'_append_eq_right

@[simp] theorem fieldOp_wordXnn : fieldOp (wordXnn op x nn) = op := by rw [wordXnn_eq_wordNnn, fieldOp_wordNnn]

@[simp] theorem fieldX_wordXnn : fieldX (wordXnn op x nn) = x :=
  (BitVec.extractLsb'_append_eq_of_le (by decide)).trans BitVec.extractLsb'_append_eq_right

@[simp] theorem fieldNn_wordXnn : fieldNn (wordXnn op x nn) = nn := BitVec.extractLsb'_append_eq_right

@[simp] theorem fieldOp_wordXyn : fieldOp (wordXyn op x y n) = op := by rw [wordXyn_eq_wordXnn, fieldOp_wordXnn]

@[simp] theorem fieldX_wordXyn : fieldX (wordXyn op x y n) = x := by rw [wordXyn_eq_wordXnn, fieldX_wordXnn]

@[simp] theorem fieldY_wordXyn : fieldY (wordXyn op x y n) = y :=
  (BitVec.extractLsb'_append_eq_of_le (by decide)).trans BitVec.extractLsb'_append_eq_right

@[simp] theorem fieldN_wordXyn : fieldN (wordXyn op x y n) = n := BitVec.extractLsb'_append_eq_right

theorem fieldX_append_fieldNn : fieldX w ++ fieldNn w = fieldNnn w :=
  BitVec.extractLsb'_append_extractLsb'_eq_extractLsb' rfl

theorem fieldY_append_fieldN : fieldY w ++ fieldN w = fieldNn w :=
  BitVec.extractLsb'_append_extractLsb'_eq_extractLsb' rfl

theorem wordNnn_fields : wordNnn (fieldOp w) (fieldNnn w) = w :=
  (BitVec.extractLsb'_append_extractLsb'_eq_extractLsb' rfl).trans BitVec.extractLsb'_eq_self

theorem wordXnn_fields : wordXnn (fieldOp w) (fieldX w) (fieldNn w) = w := by
  rw [wordXnn_eq_wordNnn, fieldX_append_fieldNn, wordNnn_fields]

theorem wordXyn_fields : wordXyn (fieldOp w) (fieldX w) (fieldY w) (fieldN w) = w := by
  rw [wordXyn_eq_wordXnn, fieldY_append_fieldN, wordXnn_fields]

/-- The bytes of a joined word are the bytes joined (20_memory.md R43). -/
theorem wordBytes_joinBytes (hi lo : Byte) : wordBytes (joinBytes hi lo) = [hi, lo] :=
  congrArg₂ (fun a b => [a, b]) BitVec.extractLsb'_append_eq_left BitVec.extractLsb'_append_eq_right

theorem toNat_fieldOp : (fieldOp w).toNat = w.toNat / 4096 := by
  have := w.isLt
  rw [fieldOp, BitVec.extractLsb'_toNat, Nat.shiftRight_eq_div_pow]
  omega

theorem toNat_fieldN : (fieldN w).toNat = w.toNat % 16 := BitVec.extractLsb'_toNat 0 4 w

theorem toNat_fieldNn : (fieldNn w).toNat = w.toNat % 256 := BitVec.extractLsb'_toNat 0 8 w

end Formats

/-! ## The free codes of the families (30_encoding.md R67) -/

theorem free8_iff (n : Nibble) : Instr.free8 n = true ↔ n.toNat ∈ [8, 9, 10, 11, 12, 13, 15] := by
  revert n
  decide

theorem freeE_iff (nn : Byte) : Instr.freeE nn = true ↔ nn.toNat ∉ [0x9E, 0xA1] := by
  simp [Instr.freeE, BitVec.toNat_eq]

theorem freeF_iff (nn : Byte) :
    Instr.freeF nn = true ↔ nn.toNat ∉ [0x07, 0x0A, 0x15, 0x18, 0x1E, 0x29, 0x33, 0x55, 0x65] := by
  simp [Instr.freeF, BitVec.toNat_eq, and_assoc]

/-- A free code meets no named arm of its family. -/
theorem decode8_of_free {w : Word} (h : Instr.free8 (fieldN w) = true) :
    decode8 w = .reserved8 (fieldX w) (fieldY w) (fieldN w) := by
  rw [free8_iff] at h
  unfold decode8
  split <;> simp_all

theorem decodeE_of_free {w : Word} (h : Instr.freeE (fieldNn w) = true) :
    decodeE w = .reservedE (fieldX w) (fieldNn w) := by
  rw [freeE_iff] at h
  unfold decodeE
  split <;> simp_all

theorem decodeF_of_free {w : Word} (h : Instr.freeF (fieldNn w) = true) :
    decodeF w = .reservedF (fieldX w) (fieldNn w) := by
  rw [freeF_iff] at h
  unfold decodeF
  split <;> simp_all

/-! ## Decoding after encoding (30_encoding.md R66, R69) -/

/-- The word of a well-formed SYS is neither `00E0` nor `00EE`. -/
theorem decode0_of_sysFree {nnn : Addr} (h : Instr.sysFree nnn = true) :
    decode0 (wordNnn 0#4 nnn) = .sys nnn := by
  rw [Instr.sysFree, Bool.and_eq_true, bne_iff_ne, bne_iff_ne] at h
  obtain ⟨hcls, hret⟩ := h
  have hnnn := fieldNnn_wordNnn 0#4 nnn
  rw [decode0, if_neg fun e => hcls (hnnn.symm.trans (congrArg fieldNnn e)),
    if_neg fun e => hret (hnnn.symm.trans (congrArg fieldNnn e)), hnnn]

/-- The decoder gives back the instruction, family by family: each field is cut from where it was put. -/
theorem decodeWord_encode {i : Instr} (h : i.wf = true) : decodeWord (encode i) = i := by
  cases i with
  | cls | ret => rfl
  | sys nnn =>
    have hfree : Instr.sysFree nnn = true := h
    simp [encode, decodeWord, decode0_of_sysFree, hfree]
  | jp | call | ldI | jpV0 | seImm | sneImm | ldImm | addImm | rnd | drw => simp [encode, decodeWord]
  | seReg => simp [encode, decodeWord, decode5]
  | reserved5 x y n =>
    have hn : n ≠ 0#4 := bne_iff_ne.mp h
    simp [encode, decodeWord, decode5, hn]
  | ldReg | orReg | andReg | xorReg | addReg | subReg | shr | subn | shl => simp [encode, decodeWord, decode8]
  | reserved8 x y n =>
    have hfree : Instr.free8 n = true := h
    simp [encode, decodeWord, decode8_of_free, hfree]
  | sneReg => simp [encode, decodeWord, decode9]
  | reserved9 x y n =>
    have hn : n ≠ 0#4 := bne_iff_ne.mp h
    simp [encode, decodeWord, decode9, hn]
  | skp | sknp => simp [encode, decodeWord, decodeE]
  | reservedE x nn =>
    have hfree : Instr.freeE nn = true := h
    simp [encode, decodeWord, decodeE_of_free, hfree]
  | ldVxDt | ldVxK | ldDtVx | ldStVx | addI | ldF | ldB | ldMemVx | ldVxMem => simp [encode, decodeWord, decodeF]
  | reservedF x nn =>
    have hfree : Instr.freeF nn = true := h
    simp [encode, decodeWord, decodeF_of_free, hfree]

/-- Settles O2: the two bytes join to the word, which decodes to the instruction. -/
theorem decodeOfEncode : Obligations.DecodeOfEncode := by
  intro i rest h
  have hword : decodeWord (joinBytes (highByte (encode i)) (lowByte (encode i))) = i := by
    rw [joinBytes_wordBytes, decodeWord_encode h]
  exact congrArg (Decoded.instr · rest) hword

/-! ## Encoding after decoding (30_encoding.md R68, R69) -/

/-- `w` is the word of the well-formed instruction `i`. -/
structure Spells (i : Instr) (w : Word) : Prop where
  wf : i.wf = true
  word : encode i = w

section Families
variable {w : Word} {op : Nibble}

theorem wordNnn_of_op (hop : fieldOp w = op) : wordNnn op (fieldNnn w) = w := by rw [← hop, wordNnn_fields]

theorem wordXnn_of_op (hop : fieldOp w = op) : wordXnn op (fieldX w) (fieldNn w) = w := by
  rw [← hop, wordXnn_fields]

theorem wordXyn_of_op (hop : fieldOp w = op) : wordXyn op (fieldX w) (fieldY w) (fieldN w) = w := by
  rw [← hop, wordXyn_fields]

theorem wordXnn_of_code {nn : Byte} (hop : fieldOp w = op) (hn : (fieldNn w).toNat = nn.toNat) :
    wordXnn op (fieldX w) nn = w := by rw [← BitVec.eq_of_toNat_eq hn, wordXnn_of_op hop]

theorem wordXyn_of_code {n : Nibble} (hop : fieldOp w = op) (hn : (fieldN w).toNat = n.toNat) :
    wordXyn op (fieldX w) (fieldY w) n = w := by rw [← BitVec.eq_of_toNat_eq hn, wordXyn_of_op hop]

theorem decode0_spells (hop : fieldOp w = 0#4) : Spells (decode0 w) w := by
  unfold decode0
  split_ifs with hcls hret
  · exact ⟨rfl, hcls.symm⟩
  · exact ⟨rfl, hret.symm⟩
  · have hw : wordNnn 0#4 (fieldNnn w) = w := wordNnn_of_op hop
    have hfree : Instr.sysFree (fieldNnn w) = true := by
      rw [Instr.sysFree, Bool.and_eq_true, bne_iff_ne, bne_iff_ne]
      exact ⟨fun e => hcls (hw ▸ e ▸ rfl), fun e => hret (hw ▸ e ▸ rfl)⟩
    exact ⟨hfree, hw⟩

theorem decode5_spells (hop : fieldOp w = 5#4) : Spells (decode5 w) w := by
  unfold decode5
  split_ifs with hn
  · exact ⟨rfl, wordXyn_of_code hop (congrArg _ hn)⟩
  · exact ⟨bne_iff_ne.mpr hn, wordXyn_of_op hop⟩

/-- The last arm is that of the free codes. -/
theorem decode8_spells (hop : fieldOp w = 8#4) : Spells (decode8 w) w := by
  unfold decode8
  split
  case h_10 =>
    have hfree : Instr.free8 (fieldN w) = true := by grind [Instr.free8]
    exact ⟨hfree, wordXyn_of_op hop⟩
  all_goals exact ⟨rfl, wordXyn_of_code hop ‹_›⟩

theorem decode9_spells (hop : fieldOp w = 9#4) : Spells (decode9 w) w := by
  unfold decode9
  split_ifs with hn
  · exact ⟨rfl, wordXyn_of_code hop (congrArg _ hn)⟩
  · exact ⟨bne_iff_ne.mpr hn, wordXyn_of_op hop⟩

theorem decodeE_spells (hop : fieldOp w = 14#4) : Spells (decodeE w) w := by
  unfold decodeE
  split
  case h_3 =>
    have hfree : Instr.freeE (fieldNn w) = true := by grind [Instr.freeE]
    exact ⟨hfree, wordXnn_of_op hop⟩
  all_goals exact ⟨rfl, wordXnn_of_code hop ‹_›⟩

theorem decodeF_spells (hop : fieldOp w = 15#4) : Spells (decodeF w) w := by
  unfold decodeF
  split
  case h_10 =>
    have hfree : Instr.freeF (fieldNn w) = true := by grind [Instr.freeF]
    exact ⟨hfree, wordXnn_of_op hop⟩
  all_goals exact ⟨rfl, wordXnn_of_code hop ‹_›⟩

end Families

/-- Every word is that of the instruction it decodes to: the cases are the arms of the decoder, the last one family
F. -/
theorem decodeWord_spells (w : Word) : Spells (decodeWord w) w := by
  unfold decodeWord
  split
  case h_1 hop => exact decode0_spells (BitVec.eq_of_toNat_eq hop)
  case h_6 hop => exact decode5_spells (BitVec.eq_of_toNat_eq hop)
  case h_9 hop => exact decode8_spells (BitVec.eq_of_toNat_eq hop)
  case h_10 hop => exact decode9_spells (BitVec.eq_of_toNat_eq hop)
  case h_15 hop => exact decodeE_spells (BitVec.eq_of_toNat_eq hop)
  case h_16 =>
    have hlt := (fieldOp w).isLt
    have hop : (fieldOp w).toNat = 15 := by grind
    exact decodeF_spells (BitVec.eq_of_toNat_eq hop)
  case h_2 hop | h_3 hop | h_11 hop | h_12 hop => exact ⟨rfl, wordNnn_of_op (BitVec.eq_of_toNat_eq hop)⟩
  case h_4 hop | h_5 hop | h_7 hop | h_8 hop | h_13 hop =>
    exact ⟨rfl, wordXnn_of_op (BitVec.eq_of_toNat_eq hop)⟩
  case h_14 hop => exact ⟨rfl, wordXyn_of_op (BitVec.eq_of_toNat_eq hop)⟩

/-- Settles O3: the joined word spells the instruction it decodes to, and its bytes are the two bytes. -/
theorem encodeOfDecode : Obligations.EncodeOfDecode := by
  intro hi lo rest
  obtain ⟨hwf, hword⟩ := decodeWord_spells (joinBytes hi lo)
  exact ⟨_, rfl, hwf, (congrArg wordBytes hword).trans (wordBytes_joinBytes hi lo)⟩

/-- Settles O1, word by word. -/
theorem sampleWordsDecode : Obligations.SampleWordsDecode :=
  ⟨rfl, rfl, rfl, rfl, rfl, rfl, rfl, rfl, rfl, rfl, rfl, rfl⟩

end Sys2Proof

namespace Sys2Proof.Machine

/-! ## The reserved words (30_encoding.md R67, 40_control_flow.md R89) -/

/-- The five reserved classes, read on the fields of the word. -/
def InReservedClass (w : Word) : Prop :=
  (fieldOp w = 5#4 ∧ fieldN w ≠ 0#4) ∨
  (fieldOp w = 8#4 ∧ Instr.free8 (fieldN w) = true) ∨
  (fieldOp w = 9#4 ∧ fieldN w ≠ 0#4) ∨
  (fieldOp w = 14#4 ∧ Instr.freeE (fieldNn w) = true) ∨
  (fieldOp w = 15#4 ∧ Instr.freeF (fieldNn w) = true)

/-- Among the well-formed instructions the reserved ones are those whose word is in a reserved class: the others are
of another family or have a code that is taken. -/
theorem isReserved_iff_encode {i : Instr} (h : i.wf = true) :
    isReserved i = true ↔ InReservedClass (encode i) := by
  cases i with
  | cls | ret => unfold InReservedClass; decide
  | reserved5 | reserved8 | reserved9 | reservedE | reservedF =>
    simpa [InReservedClass, isReserved, encode, Instr.wf] using h
  | _ => simp [InReservedClass, isReserved, encode, Instr.free8, Instr.freeE, Instr.freeF]

theorem isReserved_decodeWord_iff (w : Word) : isReserved (decodeWord w) = true ↔ InReservedClass w := by
  obtain ⟨hwf, hword⟩ := decodeWord_spells w
  rw [isReserved_iff_encode hwf, hword]

/-- The classes on the digits of the word. -/
theorem inReservedClass_iff (w : Word) : InReservedClass w ↔
    (w.toNat / 4096 = 5 ∧ w.toNat % 16 ≠ 0) ∨
    (w.toNat / 4096 = 8 ∧ w.toNat % 16 ∈ [8, 9, 10, 11, 12, 13, 15]) ∨
    (w.toNat / 4096 = 9 ∧ w.toNat % 16 ≠ 0) ∨
    (w.toNat / 4096 = 14 ∧ w.toNat % 256 ∉ [0x9E, 0xA1]) ∨
    (w.toNat / 4096 = 15 ∧ w.toNat % 256 ∉ [0x07, 0x0A, 0x15, 0x18, 0x1E, 0x29, 0x33, 0x55, 0x65]) := by
  rw [InReservedClass, free8_iff, freeE_iff, freeF_iff, ← toNat_fieldOp, ← toNat_fieldN, ← toNat_fieldNn]
  simp only [ne_eq, BitVec.toNat_eq, BitVec.toNat_ofNat, Nat.reducePow, Nat.reduceMod]

theorem exec_of_isReserved {i : Instr} (h : isReserved i = true) (s : State) : exec i s = .next s := by
  cases i with
  | reserved5 | reserved8 | reserved9 | reservedE | reservedF => rfl
  | _ => cases h

/-- Settles O4: a word decodes to a reserved instruction by its fields, and its execution is the no-op. -/
theorem reservedWordsAreNoOps : Obligations.ReservedWordsAreNoOps :=
  ⟨fun w => (isReserved_decodeWord_iff w).trans (inReservedClass_iff w), fun _ s h => exec_of_isReserved h s⟩

/-! ## No word and no request stops the model (30_encoding.md R68, 60_exceptions.md R168) -/

/-- With at most 16 entries on the stack every instruction answers a next state: only a call and a return can
stop. -/
theorem exec_answers (i : Instr) {s : State} (h : s.sp.toNat ≤ 16) : ∃ t, exec i s = .next t := by
  cases i with
  | call nnn =>
    obtain ⟨-, he⟩ | ⟨_, he⟩ | ⟨hgt, -⟩ := callTo_cases s (addrWord nnn)
    · exact ⟨_, he⟩
    · exact ⟨_, he⟩
    · omega
  | ret =>
    obtain ⟨-, he⟩ | ⟨-, _, he⟩ | ⟨hgt, -⟩ := popPc_cases s
    · exact ⟨_, he⟩
    · exact ⟨_, he⟩
    · omega
  | _ => exact ⟨_, rfl⟩

theorem cycle_answers {s : State} (h : s.sp.toNat ≤ 16) : ∃ t, cycle s = .next t := by
  obtain ⟨-, he⟩ | ⟨-, -, he⟩ | ⟨-, -, he⟩ := cycle_cases s
  · exact ⟨_, he⟩
  · exact ⟨_, he⟩
  · rw [he]
    exact exec_answers _ h

theorem drawRequest_sp (s : State) : s.drawRequest.sp = s.sp := by rw [drawRequest_onlyHostAndTimers s]

/-- Settles O16: a request is a cycle, whose stack is that of the state, or a tick or a reset, which cannot stop. -/
theorem stepNeverStops : Obligations.StepNeverStops := by
  intro s hs
  obtain ⟨-, he⟩ | ⟨r, rest, -, he⟩ := step_cases s <;> rw [he]
  · exact cycle_answers (by rw [drawRequest_sp]; exact hs.depth)
  · cases r with
    | step k b => exact cycle_answers (s := State.present { s with hostQueue := rest } k b) hs.depth
    | tick | rst => exact ⟨_, rfl⟩

/-! ## The cycle of a running block (30_encoding.md R64, R65) -/

theorem halted_eq_false {s : State} (h : s.fault = .none) : s.halted = false := decide_eq_false (not_not_intro h)

/-- Two bytes at `pc`: the cycle runs the word they make. -/
theorem cycle_of_fetch {s : State} (hf : s.fault = .none) (hpc : s.pc.toNat + 1 < 4096) :
    cycle s = exec (decodeWord s.fetchWord) s.beginCycle.advancePc := by
  obtain ⟨hh, -⟩ | ⟨-, hend, -⟩ | ⟨-, -, he⟩ := cycle_cases s
  · exact absurd (hh.symm.trans (halted_eq_false hf)) (by decide)
  · omega
  · exact he

/-- Fewer than two bytes at `pc`: the fault of the fetch (60_exceptions.md R161). -/
theorem cycle_of_pastEnd {s : State} (hf : s.fault = .none) (hpc : 4095 ≤ s.pc.toNat) :
    cycle s = .next (s.beginCycle.raise .fetchOob) := by
  obtain ⟨hh, -⟩ | ⟨-, -, he⟩ | ⟨-, hin, -⟩ := cycle_cases s
  · exact absurd (hh.symm.trans (halted_eq_false hf)) (by decide)
  · exact he
  · omega

theorem step_of_request {s : State} {r : HostRequest} {rest : List HostRequest} (h : s.hostQueue = r :: rest) :
    step s = perform r { s with hostQueue := rest } := by
  rw [step, hostStep, h]

theorem step_of_empty {s : State} (h : s.hostQueue = []) : step s = cycle s.drawRequest := by
  rw [step, hostStep, h]

/-- What the host draws for a running block: the ticks reach the timers. -/
theorem drawRequest_of_running {s : State} (h : s.fault = .none) :
    s.drawRequest = { s with
      dt := countDownBy (Config.ticksBefore s.hostTime) s.dt
      st := countDownBy (Config.ticksBefore s.hostTime) s.st
      keysIn := Config.keysIn s.hostTime
      randIn := Config.randIn s.hostTime
      hostTime := s.hostTime + 1 } := by
  rw [State.drawRequest, State.ticks, halted_eq_false h]
  rfl

/-- Settles O6: an explicit and a drawn request both come to the cycle of a fetch. -/
theorem stepRunsTheDecodedInstruction : Obligations.StepRunsTheDecodedInstruction := by
  intro s i rest k r hf hpc hdec
  obtain ⟨hword, -⟩ := Decoded.instr.inj hdec
  refine ⟨fun hq => ?_, fun hq => ?_⟩
  · rw [step_of_request hq, ← hword]
    exact cycle_of_fetch hf hpc
  · rw [step_of_empty hq, drawRequest_of_running hf, ← hword]
    exact cycle_of_fetch hf hpc

/-- Settles O8: the step is the cycle of a fetch past the end. -/
theorem fetchPastEndHalts : Obligations.FetchPastEndHalts := by
  intro s k r rest hq hf hpc
  exact ⟨_, (step_of_request hq).trans (cycle_of_pastEnd hf hpc), rfl, rfl⟩

end Sys2Proof.Machine

/-! PROOFS. Family 40_control_flow.md: the no-op SYS, the jumps, the skips, the call and the return. -/

namespace Sys2Proof.Machine

/-! ## The words of SYS (40_control_flow.md R80) -/

theorem decode0_other {w : Word} (hcls : w ≠ 0x00E0#16) (hret : w ≠ 0x00EE#16) : decode0 w = .sys (fieldNnn w) := by
  rw [decode0, if_neg hcls, if_neg hret]

theorem decodeWord_family0 {w : Word} (h : w.toNat / 4096 = 0) : decodeWord w = decode0 w := by
  have hop : (fieldOp w).toNat = 0 := (toNat_fieldOp w).trans h
  simp only [decodeWord, hop]

/-- Settles O5: family 0 is decided by the whole word, and SYS is the no-op. -/
theorem sysWordsAreNoOps : Obligations.SysWordsAreNoOps :=
  ⟨fun _ h hcls hret => (decodeWord_family0 h).trans (decode0_other hcls hret), fun _ _ => rfl⟩

/-! ## The jumps (40_control_flow.md R82, R88) -/

theorem jump_onlyPc (s : State) (a : Word) : OnlyPc s (s.jump a) := ⟨rfl, fun _ => rfl⟩

/-- The fetch needs two bytes below 4096 (30_encoding.md R65). -/
theorem fetchFaults_iff (s : State) : s.fetchFaults = true ↔ 4095 ≤ s.pc.toNat := by
  rw [State.fetchFaults, decide_eq_true_iff, memSize]
  omega

/-- Settles O31: the jump's target is the literal, whose highest value leaves one byte to fetch. -/
theorem jumpSetsPc : Obligations.JumpSetsPc := by
  intro nnn s
  refine ⟨s.jump (addrWord nnn), rfl, toNat_addrWord nnn, jump_onlyPc s _, ?_⟩
  rintro rfl
  rw [fetchFaults_iff, State.jump_pc, toNat_addrWord]
  decide

/-- The sum of a literal address and a register fits 16 bits, so it does not wrap. -/
theorem toNat_addrWord_add (nnn : Addr) (b : Byte) :
    (addrWord nnn + b.setWidth 16).toNat = nnn.toNat + b.toNat := by
  have := nnn.isLt
  have := b.isLt
  rw [BitVec.toNat_add, toNat_addrWord, BitVec.toNat_setWidth]
  omega

theorem addrX_eq_ofNat (nnn : Addr) : addrX nnn = BitVec.ofNat 4 (nnn.toNat / 256) := by
  apply BitVec.eq_of_toNat_eq
  rw [addrX, BitVec.extractLsb'_toNat, BitVec.toNat_ofNat, Nat.shiftRight_eq_div_pow]

/-- Settles O32: the target is the unmasked sum of the literal and the offset register. -/
theorem jumpWithOffset : Obligations.JumpWithOffset := by
  intro nnn s
  refine ⟨s.jump (addrWord nnn + (s.jumpOffset nnn).setWidth 16), rfl, jump_onlyPc s _, ?_, (fetchFaults_iff _).mpr⟩
  rw [State.jump_pc, toNat_addrWord_add, State.jumpOffset, addrX_eq_ofNat]

/-! ## The skips (40_control_flow.md R84 to R87) -/

theorem skipIf_onlyPc (s : State) (c : Bool) : OnlyPc s (s.skipIf c) := ⟨rfl, fun _ => rfl⟩

theorem skipIf_decide_pc (s : State) (p : Prop) [Decidable p] :
    (s.skipIf (decide p)).pc = if p then s.pc + 2 else s.pc := by
  by_cases h : p <;> simp [h]

theorem skipIf_decide_not_pc (s : State) (p : Prop) [Decidable p] :
    (s.skipIf (decide ¬p)).pc = if p then s.pc else s.pc + 2 := by
  rw [skipIf_decide_pc, ite_not]

/-- Settles O33: each is a skip on the equality of two operands or on its negation. -/
theorem compareAndSkip : Obligations.CompareAndSkip := fun _ _ _ s =>
  ⟨⟨rfl, rfl, rfl, rfl⟩,
    ⟨_, rfl, skipIf_onlyPc s _, skipIf_decide_pc s _⟩,
    ⟨_, rfl, skipIf_onlyPc s _, skipIf_decide_not_pc s _⟩,
    ⟨_, rfl, skipIf_onlyPc s _, skipIf_decide_pc s _⟩,
    ⟨_, rfl, skipIf_onlyPc s _, skipIf_decide_not_pc s _⟩⟩

/-! ## The call and the return (40_control_flow.md R81, R83) -/

theorem callTo_of_room {s : State} (target : Word) (h : s.sp.toNat < 16) : s.callTo target =
    .next { s with stack := s.stack.set s.sp.toNat s.pc h, sp := s.sp + 1#5, pc := target } := by
  obtain ⟨hfull, -⟩ | ⟨_, he⟩ | ⟨hgt, -⟩ := callTo_cases s target
  · omega
  · exact he
  · omega

theorem callTo_of_full {s : State} (target : Word) (h : s.sp.toNat = 16) :
    s.callTo target = .next (s.raise .stackOverflow) := by
  obtain ⟨-, he⟩ | ⟨hlt, -⟩ | ⟨hgt, -⟩ := callTo_cases s target
  · exact he
  · omega
  · omega

theorem popPc_of_entry {s : State} (hpos : 0 < s.sp.toNat) (h : s.sp.toNat - 1 < 16) :
    s.popPc = .next { s with sp := s.sp - 1#5, pc := s.stack[s.sp.toNat - 1] } := by
  obtain ⟨hempty, -⟩ | ⟨-, _, he⟩ | ⟨hgt, -⟩ := popPc_cases s
  · omega
  · exact he
  · omega

theorem popPc_of_empty {s : State} (h : s.sp.toNat = 0) : s.popPc = .next (s.raise .stackUnderflow) := by
  obtain ⟨-, he⟩ | ⟨hpos, -⟩ | ⟨hgt, -⟩ := popPc_cases s
  · exact he
  · omega
  · omega

theorem toNat_depth_push {sp : BitVec 5} (h : sp.toNat < 16) : (sp + 1#5).toNat = sp.toNat + 1 := by
  rw [BitVec.toNat_add, BitVec.toNat_ofNat]
  omega

theorem toNat_depth_pop {sp : BitVec 5} (h : 0 < sp.toNat) : (sp - 1#5).toNat + 1 = sp.toNat := by
  have := sp.isLt
  rw [BitVec.toNat_sub, BitVec.toNat_ofNat]
  omega

/-- Settles O34: with room the one slot at the old depth takes the advanced `pc`; without, only the latch changes. -/
theorem callPushesAndJumps : Obligations.CallPushesAndJumps := by
  intro nnn s
  refine ⟨fun hroom => ?_, fun hfull => ⟨_, callTo_of_full _ hfull, rfl, rfl⟩⟩
  exact ⟨_, callTo_of_room _ hroom, toNat_addrWord nnn, toNat_depth_push hroom,
    Vector.getElem?_set_self hroom, fun k hk => Vector.getElem?_set_ne hroom hk.symm, rfl, fun _ => rfl⟩

/-- Settles O35: with an entry `pc` is the slot below the old depth; with none only the latch changes. -/
theorem returnPops : Obligations.ReturnPops := by
  intro s
  refine ⟨fun hpos hle => ?_, fun hempty => ⟨_, popPc_of_empty hempty, rfl, rfl⟩⟩
  have hslot : s.sp.toNat - 1 < 16 := by omega
  have hdepth := toNat_depth_pop hpos
  refine ⟨_, popPc_of_entry hpos hslot, hdepth, ?_, rfl, fun _ => rfl⟩
  rw [Nat.eq_sub_of_add_eq hdepth, Vector.getElem?_eq_getElem hslot]

/-- Settles O36: the return pops the slot that the call has just pushed, whatever `pc` is between them. -/
theorem callThenReturn : Obligations.CallThenReturn := by
  intro nnn p s hroom
  obtain ⟨t, hcall, -, htsp, htop, -⟩ := (callPushesAndJumps nnn s).1 hroom
  have hpos : 0 < t.sp.toNat := by omega
  have hle : t.sp.toNat ≤ 16 := by omega
  obtain ⟨u, hret, husp, hpop, -⟩ := (returnPops { t with pc := p }).1 hpos hle
  have hdepth : u.sp.toNat = s.sp.toNat := Nat.succ.inj (husp.trans htsp)
  rw [hdepth] at hpop
  exact ⟨t, u, hcall, hret, Option.some.inj (hpop.symm.trans htop), BitVec.eq_of_toNat_eq hdepth⟩

end Sys2Proof.Machine

/-! PROOFS. Family 41_arith_logic.md: the loads, the sums and differences, the bitwise operations and the shifts. -/

namespace Sys2Proof.Machine

/-! ## Which registers the three kinds of write leave alone -/

theorem writeV_changes (s : State) (x : Nibble) (b : Byte) :
    SameVExcept (· = x) s (s.writeV x b) ∧ OnlyV s (s.writeV x b) :=
  ⟨(sameVExcept_refl _ s).writeV b rfl, rfl, writeV_byteAt s x b⟩

theorem resultThenFlag_changes (s : State) (x : Nibble) (r f : Byte) :
    SameVExcept (fun z => z = x ∨ z = 15#4) s (s.resultThenFlag x r f) ∧ OnlyV s (s.resultThenFlag x r f) :=
  ⟨((sameVExcept_refl _ s).writeV r (.inl rfl)).writeV f (.inr rfl), rfl, fun _ => rfl⟩

/-- A shift also writes `V[x]` first, with its source. -/
theorem shift_changes (s : State) (x : Nibble) (b : Byte) (f r : Byte → Byte) :
    SameVExcept (fun z => z = x ∨ z = 15#4) s ((s.writeV x b).flagThenResult x f r) ∧
      OnlyV s ((s.writeV x b).flagThenResult x f r) :=
  ⟨(((sameVExcept_refl _ s).writeV b (.inl rfl)).writeV _ (.inr rfl)).writeV _ (.inl rfl), rfl, fun _ => rfl⟩

/-! ## What the result and the flag read as (41_arith_logic.md R112) -/

theorem readV_resultThenFlag_result (s : State) {x : Nibble} (r f : Byte) (h : x ≠ 15#4) :
    (s.resultThenFlag x r f).readV x = r := by
  rw [readV_resultThenFlag, if_neg h, if_pos rfl]

theorem readV_resultThenFlag_flag (s : State) (x : Nibble) (r f : Byte) :
    (s.resultThenFlag x r f).readV 15#4 = f := by
  rw [readV_resultThenFlag, if_pos rfl]

theorem readV_shift_result (s : State) {x : Nibble} (b : Byte) (f r : Byte → Byte) (h : x ≠ 15#4) :
    ((s.writeV x b).flagThenResult x f r).readV x = r b := by
  rw [readV_flagThenResult, if_pos rfl, if_neg h, readV_writeV_same]

theorem readV_shift_flag (s : State) {x : Nibble} (b : Byte) (f r : Byte → Byte) (h : x ≠ 15#4) :
    ((s.writeV x b).flagThenResult x f r).readV 15#4 = f b := by
  rw [readV_flagThenResult, if_neg h.symm, if_pos rfl, readV_writeV_same]

/-- With `x` = 15 the flag replaces the source before it is shifted (92_eei_decisions.md D7). -/
theorem readV_shift_onFlag (s : State) (b : Byte) (f r : Byte → Byte) :
    ((s.writeV 15#4 b).flagThenResult 15#4 f r).readV 15#4 = r (f b) := by
  rw [readV_flagThenResult, if_pos rfl, if_pos rfl, readV_writeV_same]

/-! ## The values as numbers -/

theorem toNat_byte_add (a b : Byte) : (a + b).toNat = (a.toNat + b.toNat) % 256 := BitVec.toNat_add a b

theorem toNat_byte_sub (a b : Byte) : (a - b).toNat = (256 + a.toNat - b.toNat) % 256 := by
  have := b.isLt
  rw [BitVec.toNat_sub]
  omega

theorem flagByte_decide (p : Prop) [Decidable p] : flagByte (decide p) = if p then 1#8 else 0#8 := by
  simp only [flagByte, decide_eq_true_eq]

theorem toNat_shiftedRight (t : Byte) : (t >>> 1).toNat = t.toNat / 2 := by
  rw [BitVec.toNat_ushiftRight, Nat.shiftRight_one]

theorem toNat_bottomBit (t : Byte) : (bottomBit t).toNat = t.toNat % 2 :=
  (BitVec.toNat_and t 1#8).trans (Nat.and_one_is_mod t.toNat)

theorem bottomBit_shiftedRight (t : Byte) : bottomBit t >>> 1 = 0#8 := by
  apply BitVec.eq_of_toNat_eq
  rw [toNat_shiftedRight, toNat_bottomBit, BitVec.toNat_ofNat]
  omega

theorem toNat_shiftedLeft (t : Byte) : (t <<< 1).toNat = t.toNat * 2 % 256 := by
  rw [BitVec.toNat_shiftLeft, Nat.shiftLeft_eq, Nat.pow_one]

/-- Bit 7 is set exactly from 128 up. -/
theorem topBit_eq (t : Byte) : topBit t = if t.toNat < 128 then 0#8 else 1#8 := by
  have hmask : t &&& 0x80#8 = if t.getLsbD 7 then 0x80#8 else 0#8 := BitVec.and_twoPow t 7
  have hbit : t.getLsbD 7 = decide (128 ≤ t.toNat) := BitVec.msb_eq_decide t
  rw [topBit, flagByte_decide, hmask, hbit]
  by_cases h : t.toNat < 128
  · simp [h]
  · simp [h, Nat.le_of_not_lt h]

theorem toNat_topBit (t : Byte) : (topBit t).toNat = t.toNat / 128 := by
  have := t.isLt
  rw [topBit_eq]
  split
  · exact (Nat.div_eq_of_lt ‹_›).symm
  · rw [BitVec.toNat_ofNat]
    omega

theorem topBit_shiftedLeft (t : Byte) : topBit t <<< 1 = if t.toNat < 128 then 0#8 else 2#8 := by
  rw [topBit_eq]
  split <;> rfl

/-! ## The instructions (41_arith_logic.md R100 to R110) -/

/-- Settles O37: each is one write of `V[x]`. -/
theorem loadsAndAddImmediate : Obligations.LoadsAndAddImmediate := fun x y nn s =>
  ⟨⟨rfl, rfl, rfl⟩,
    ⟨_, rfl, readV_writeV_same s x nn, writeV_changes s x _⟩,
    ⟨_, rfl, (congrArg _ (readV_writeV_same s x _)).trans (toNat_byte_add _ nn), writeV_changes s x _⟩,
    ⟨_, rfl, readV_writeV_same s x (s.readV y), writeV_changes s x _⟩⟩

/-- Settles O38: each is one write of `V[x]`, with the library's bitwise operation. -/
theorem logicBitwise : Obligations.LogicBitwise := by
  intro x y s
  refine ⟨⟨s.writeV x (s.readV x ||| s.readV y), rfl, ?or⟩, ⟨s.writeV x (s.readV x &&& s.readV y), rfl, ?and⟩,
    ⟨s.writeV x (s.readV x ^^^ s.readV y), rfl, ?xor⟩⟩
  all_goals
    obtain ⟨hv, honly⟩ := writeV_changes s x _
    refine ⟨hv, honly, fun j => ?_⟩
    rw [readV_writeV_same]
  case or => exact BitVec.getLsbD_or
  case and => exact BitVec.getLsbD_and
  case xor => exact BitVec.getLsbD_xor

/-- Settles O39: the sum and then the carry. -/
theorem addWithCarry : Obligations.AddWithCarry := fun x _ s =>
  ⟨_, rfl, fun h => (congrArg _ (readV_resultThenFlag_result s _ _ h)).trans (toNat_byte_add _ _),
    (readV_resultThenFlag_flag s x _ _).trans (flagByte_decide _), resultThenFlag_changes s x _ _⟩

/-- A difference and then its no-borrow flag, whichever of two operands is the minuend. -/
theorem difference_then_noBorrow (s : State) (x : Nibble) (a b : Byte) :
    (x ≠ 15#4 → ((s.resultThenFlag x (a - b) (noBorrow a b)).readV x).toNat = (256 + a.toNat - b.toNat) % 256) ∧
      (s.resultThenFlag x (a - b) (noBorrow a b)).readV 15#4 = if b.toNat ≤ a.toNat then 1#8 else 0#8 :=
  ⟨fun h => (congrArg _ (readV_resultThenFlag_result s _ _ h)).trans (toNat_byte_sub a b),
    (readV_resultThenFlag_flag s x _ _).trans (flagByte_decide _)⟩

/-- Settles O40: `8xy7` is `8xy5` with the operands exchanged. -/
theorem subtractNoBorrow : Obligations.SubtractNoBorrow := by
  intro x y s
  obtain ⟨hsub, hsubFlag⟩ := difference_then_noBorrow s x (s.readV x) (s.readV y)
  obtain ⟨hsubn, hsubnFlag⟩ := difference_then_noBorrow s x (s.readV y) (s.readV x)
  exact ⟨⟨_, rfl, hsub, hsubFlag, resultThenFlag_changes s x _ _⟩,
    ⟨_, rfl, hsubn, hsubnFlag, resultThenFlag_changes s x _ _⟩⟩

/-- Settles O41: the bit shifted out is the flag; with `x` = 15 that bit is itself shifted out. -/
theorem shiftRight : Obligations.ShiftRight := by
  intro x y s
  refine ⟨_, rfl, fun h => ⟨?result, ?flag⟩, ?onFlag, shift_changes s x _ _ _⟩
  case result => rw [readV_shift_result s _ _ _ h, toNat_shiftedRight, State.shiftSource]
  case flag => rw [readV_shift_flag s _ _ _ h, toNat_bottomBit, State.shiftSource]
  case onFlag =>
    rintro rfl
    rw [readV_shift_onFlag, bottomBit_shiftedRight]

/-- Settles O42: the bit shifted out is the flag; with `x` = 15 that bit is itself shifted to 0 or 2. -/
theorem shiftLeft : Obligations.ShiftLeft := by
  intro x y s
  refine ⟨_, rfl, fun h => ⟨?result, ?flag⟩, ?onFlag, shift_changes s x _ _ _⟩
  case result => rw [readV_shift_result s _ _ _ h, toNat_shiftedLeft, State.shiftSource]
  case flag => rw [readV_shift_flag s _ _ _ h, toNat_topBit, State.shiftSource]
  case onFlag =>
    rintro rfl
    rw [readV_shift_onFlag, topBit_shiftedLeft, State.shiftSource]

end Sys2Proof.Machine

/-! PROOFS. Family 42_index_memory.md: the loads of the index register, and the transfers between registers and
memory with their range check. -/

namespace Sys2Proof.Machine

/-! ## The index register (42_index_memory.md R120 to R122) -/

theorem writeI_onlyIndex (s : State) (n : Nat) : OnlyIndex s (s.writeI n) := ⟨rfl, fun _ => rfl⟩

/-- Up to 0xFFF the mask of R13 changes nothing. -/
theorem toNat_writeI_of_lt (s : State) {n : Nat} (h : n < 0x1000) : (s.writeI n).i.toNat = n :=
  (toNat_writeI s n).trans (Nat.mod_eq_of_lt h)

/-- Settles O43: a literal address has 12 bits. -/
theorem loadIndex : Obligations.LoadIndex := fun nnn s =>
  ⟨rfl, _, rfl, toNat_writeI_of_lt s nnn.isLt, writeI_onlyIndex s _⟩

/-- Settles O45: the highest glyph address, of `V[x]` = 255, has 12 bits. -/
theorem glyphAddress : Obligations.GlyphAddress := by
  intro x s
  have hbyte := (s.readV x).isLt
  have hmask : fontBase + glyphHeight * (s.readV x).toNat < 0x1000 := by rw [fontBase, glyphHeight]; omega
  exact ⟨_, rfl, toNat_writeI_of_lt s hmask, writeI_onlyIndex s _⟩

theorem indexFlag_of_overflow {sum : Nat} (old : Byte) (h : 4096 ≤ sum) : indexFlag sum old = 1#8 := if_pos h

theorem indexFlag_clear {sum : Nat} (old : Byte) (h : sum < 4096) (hc : Config.fx1eVfElse = .clear) :
    indexFlag sum old = 0#8 := by
  rw [indexFlag, if_neg (Nat.not_le_of_lt h), hc]

theorem indexFlag_keep {sum : Nat} (old : Byte) (h : sum < 4096) (hk : Config.fx1eVfElse = .keep) :
    indexFlag sum old = old := by
  rw [indexFlag, if_neg (Nat.not_le_of_lt h), hk]

/-- Settles O44: the flag is that of the unmasked sum, by the three cases of R121. -/
theorem addToIndex : Obligations.AddToIndex := by
  intro x s
  have hflag := readV_writeFlag_same s (indexFlag (s.i.toNat + (s.readV x).toNat) (s.readV 15#4))
  exact ⟨_, rfl, toNat_writeI _ _,
    fun h => hflag.trans (indexFlag_of_overflow _ h),
    fun h hc => hflag.trans (indexFlag_clear _ h hc),
    fun h hk => hflag.trans (indexFlag_keep _ h hk),
    (sameVExcept_refl _ s).writeV _ rfl, rfl, fun _ => rfl⟩

/-! ## The range check (60_exceptions.md R162, R169) -/

/-- A range inside memory passes the check. -/
theorem checked_inside {s t : State} {len : Nat} (h : s.i.toNat + len ≤ 4096) :
    (if s.dataFaults len then s.raise .memOob else t) = t := by
  have hok : s.dataFaults len = false := (dataFaults_eq_false s len).mpr fun _ => by omega
  exact if_neg (Bool.not_eq_true _ |>.mpr hok)

/-- A range that leaves memory latches MEM_OOB and does nothing else, whatever the instruction would do. -/
theorem checked_outside {s t : State} {len : Nat} (h : 4096 ≤ s.i.toNat + len) :
    ∃ u, (Host.Outcome.next (if s.dataFaults (len + 1) then s.raise .memOob else t) : Result) = .next u ∧
      u = { s with fault := .memOob } ∧ u.status = 2#3 := by
  have hfault : s.dataFaults (len + 1) = true := (dataFaults_iff s _).mpr ⟨Nat.succ_pos len, h⟩
  exact ⟨_, congrArg Host.Outcome.next (if_pos hfault), rfl, rfl⟩

/-! ## The store of the decimal digits (42_index_memory.md R123) -/

theorem exec_ldB_inside (x : Nibble) {s : State} (h : s.i.toNat + 2 < 4096) :
    exec (.ldB x) s = .next (s.store s.i.toNat (decimalDigits (s.readV x))) :=
  congrArg Host.Outcome.next (checked_inside h)

/-- The three bytes after the store, as numbers. -/
theorem toNat_store_decimalDigits {s : State} (b : Byte) (hm : Memory.wf s.mem = true)
    (h : s.i.toNat + 2 < 4096) :
    ((s.store s.i.toNat (decimalDigits b)).byteAt s.i.toNat).toNat = b.toNat / 100 ∧
      ((s.store s.i.toNat (decimalDigits b)).byteAt (s.i.toNat + 1)).toNat = b.toNat / 10 % 10 ∧
      ((s.store s.i.toNat (decimalDigits b)).byteAt (s.i.toNat + 2)).toNat = b.toNat % 10 := by
  have hb := b.isLt
  have hstored {k : Nat} (hk : k < 3) :
      (s.store s.i.toNat (decimalDigits b)).byteAt (s.i.toNat + k) = (decimalDigits b)[k]'hk :=
    store_byteAt s hk h hm
  refine ⟨(congrArg BitVec.toNat (hstored (k := 0) (by decide))).trans ?_,
    (congrArg BitVec.toNat (hstored (k := 1) (by decide))).trans ?_,
    (congrArg BitVec.toNat (hstored (k := 2) (by decide))).trans ?_⟩
  all_goals exact (BitVec.toNat_ofNat _ 8).trans (Nat.mod_eq_of_lt (by omega))

/-- Settles O46: the digits make up the value because it is below 1000. -/
theorem storeDecimalDigits : Obligations.StoreDecimalDigits := by
  intro x s
  refine ⟨fun hm h => ⟨_, exec_ldB_inside x h, ?digits⟩,
    fun h => ⟨_, exec_ldB_inside x h, rfl, fun _ => store_byteAt_other s (bs := decimalDigits _)⟩, checked_outside⟩
  case digits =>
    obtain ⟨hundreds, tens, ones⟩ := toNat_store_decimalDigits (s.readV x) hm h
    rw [hundreds, tens, ones]
    omega

/-! ## The transfers of registers (42_index_memory.md R124, R125) -/

/-- Inside memory the index update does not wrap. -/
theorem toNat_advanceIndex {s : State} {k : Nat} (h : s.i.toNat + k < 4096) :
    (s.advanceIndex k).i.toNat = s.i.toNat + if s.qIndex = true then k else 0 := by
  unfold State.advanceIndex
  split
  · rw [BitVec.toNat_ofNat]
    omega
  · rfl

/-- Settles O47: byte `y` of the store is `V[y]`, and the index update is the last write. -/
theorem storeRegisters : Obligations.StoreRegisters := by
  intro x s
  refine ⟨fun hm h => ⟨_, exec_ldMemVx_inside h, fun y hy => ?bytes⟩,
    fun h => ⟨_, exec_ldMemVx_inside h, rfl, fun a ha => ?outside, toNat_advanceIndex h⟩, checked_outside⟩
  case bytes =>
    have hreg : BitVec.ofNat 4 y.toNat = y := by rw [BitVec.ofNat_toNat, BitVec.setWidth_eq]
    exact (store_regBytes_byteAt hm h hy).trans (congrArg s.readV hreg)
  case outside =>
    have hlen : (s.regBytes (x.toNat + 1)).length = x.toNat + 1 := by
      rw [length_regBytes]
      exact Nat.min_eq_left x.isLt
    exact store_byteAt_other s (hlen.symm ▸ ha)

theorem exec_ldVxMem_inside {x : Nibble} {s : State} (h : s.i.toNat + x.toNat < 4096) :
    exec (.ldVxMem x) s = .next (s.loadRegs s.i.toNat (x.toNat + 1)) :=
  congrArg Host.Outcome.next (checked_inside h)

/-- Settles O48: the registers up to `x` are loaded, those above are kept. -/
theorem loadRegisters : Obligations.LoadRegisters := by
  intro x s
  refine ⟨fun h => ⟨_, exec_ldVxMem_inside h, fun y hy => ?loaded, fun y hy => ?kept, rfl, fun _ => rfl⟩,
    checked_outside⟩
  case loaded => rw [readV_loadRegs, if_pos (Nat.lt_succ_of_le hy)]
  case kept => rw [readV_loadRegs, if_neg (fun hlt => hy (Nat.le_of_lt_succ hlt))]

/-- Settles O49: the load reads, from the same `I`, the bytes that the store wrote. -/
theorem storeThenLoadRestores : Obligations.StoreThenLoadRestores := by
  intro x s w hm h
  obtain ⟨t, hstore, hbytes⟩ := (storeRegisters x s).1 hm h
  obtain ⟨u, hload, hregs, -⟩ := (loadRegisters x { t with v := w, i := s.i }).1 h
  exact ⟨t, u, hstore, hload, fun y hy => (hregs y hy).trans (hbytes y hy)⟩

end Sys2Proof.Machine

/-! PROOFS. Family 43_display.md: the clearing of the display, and the sprite that a drawing XORs into it. -/

namespace Sys2Proof.Machine

/-- Settles O50: the blank display is off everywhere. -/
theorem clearDisplay : Obligations.ClearDisplay :=
  ⟨rfl, fun _ => ⟨_, rfl, pixel_blankDisplay, rfl, fun _ => rfl, rfl, fun _ => rfl⟩⟩

/-! ## What a drawing does, in the terms of the sprite bits (43_display.md R131, R132) -/

theorem pixel_on_inside {d : Display} {r c : Nat} (h : pixel d r c = true) : r < 32 ∧ c < 64 := by
  by_contra hout
  exact Bool.false_ne_true ((pixel_outside d hout).symm.trans h)

theorem spriteBit_iff {s : State} {n ox oy r c : Nat} : spriteBit s n ox oy r c = true ↔
    oy ≤ r ∧ r < oy + n ∧ ox ≤ c ∧ c < ox + 8 ∧
      (s.byteAt (s.i.toNat + (r - oy))).getLsbD (7 - (c - ox)) = true := by
  simp only [spriteBit, Bool.and_eq_true, decide_eq_true_eq, and_assoc]

theorem pixel_drawAt (s : State) (n ox oy : Nat) {r c : Nat} (hr : r < 32) (hc : c < 64) :
    pixel (s.drawAt n ox oy).disp r c = (pixel s.disp r c ^^ spriteBit s n ox oy r c) := by
  refine (pixel_drawSprite s.mem s.i.toNat ox oy s.disp r c hr hc n).trans ?_
  simp only [spriteBit, State.byteAt, Bool.decide_and, Bool.and_assoc]

theorem flagByte_eq_one_iff (c : Bool) : flagByte c = 1#8 ↔ c = true := by cases c <;> decide

theorem flagByte_zero_or_one (c : Bool) : flagByte c = 0#8 ∨ flagByte c = 1#8 := by cases c <;> decide

theorem readV_flag_drawAt (s : State) (n ox oy : Nat) : (s.drawAt n ox oy).readV 15#4 =
    flagByte (drawSprite s.mem s.i.toNat n ox oy s.disp).2 := readV_writeFlag_same s _

/-- The flag is 1 when a sprite bit falls on a pixel that is on, which is then a pixel of the grid. -/
theorem flag_drawAt_iff (s : State) (n ox oy : Nat) : (s.drawAt n ox oy).readV 15#4 = 1#8 ↔
    ∃ r c, r < 32 ∧ c < 64 ∧ pixel s.disp r c = true ∧ spriteBit s n ox oy r c = true := by
  rw [readV_flag_drawAt, flagByte_eq_one_iff, flag_drawSprite]
  constructor
  · rintro ⟨r, c, htop, hbottom, hleft, hright, hbit, hon⟩
    obtain ⟨hr, hc⟩ := pixel_on_inside hon
    exact ⟨r, c, hr, hc, hon, spriteBit_iff.mpr ⟨htop, hbottom, hleft, hright, hbit⟩⟩
  · rintro ⟨r, c, -, -, hon, hbit⟩
    obtain ⟨htop, hbottom, hleft, hright, hbit⟩ := spriteBit_iff.mp hbit
    exact ⟨r, c, htop, hbottom, hleft, hright, hbit, hon⟩

/-! ## The instruction `Dxyn` and its range check (43_display.md R131, 60_exceptions.md R162) -/

theorem exec_drw_inside (x y : Nibble) {n : Nibble} {s : State} (h : 0 < n.toNat → s.i.toNat + n.toNat - 1 < 4096) :
    exec (.drw x y n) s = .next (s.drawAt n.toNat (s.originX x) (s.originY y)) := by
  have hok : s.dataFaults n.toNat = false := (dataFaults_eq_false s _).mpr h
  exact congrArg Host.Outcome.next (if_neg (Bool.not_eq_true _ |>.mpr hok))

/-- Settles O51: a pixel that was on is off afterwards exactly when a sprite bit falls on it. -/
theorem drawXorsTheClippedSprite : Obligations.DrawXorsTheClippedSprite := by
  intro x y n s h
  have hpixel r c (hr : r < 32) (hc : c < 64) := pixel_drawAt s n.toNat (s.originX x) (s.originY y) hr hc
  refine ⟨_, exec_drw_inside x y h, hpixel, (flag_drawAt_iff s _ _ _).trans ?collision,
    ?zeroOrOne, rfl, (sameVExcept_refl _ s).writeV _ rfl, rfl, fun _ => rfl⟩
  case collision =>
    refine exists₂_congr fun r c => and_congr_right fun hr => and_congr_right fun hc => and_congr_right fun hon => ?_
    rw [hpixel r c hr hc, hon, Bool.true_xor, Bool.not_eq_false']
  case zeroOrOne =>
    rw [readV_flag_drawAt]
    exact flagByte_zero_or_one _

/-- Settles O52: the range check counts every row. -/
theorem drawOutOfRangeFaults : Obligations.DrawOutOfRangeFaults := by
  intro x y n s hpos hout
  have hfault : s.dataFaults n.toNat = true := (dataFaults_iff s _).mpr ⟨hpos, hout⟩
  exact ⟨_, congrArg Host.Outcome.next (if_pos hfault), rfl, rfl⟩

/-! ## A second drawing of the same sprite (43_display.md R131) -/

/-- A drawing leaves the sprite itself alone, which is memory from `I` on. -/
theorem spriteBit_afterDraw (s : State) (v : Vector Byte 16) (n ox oy r c : Nat) :
    spriteBit { s.drawAt n ox oy with v := v } n ox oy r c = spriteBit s n ox oy r c := rfl

theorem pixel_drawAt_twice (s : State) (v : Vector Byte 16) (n ox oy : Nat) {r c : Nat} (hr : r < 32)
    (hc : c < 64) :
    pixel (State.drawAt { s.drawAt n ox oy with v := v } n ox oy).disp r c = pixel s.disp r c := by
  rw [pixel_drawAt _ _ _ _ hr hc, spriteBit_afterDraw, pixel_drawAt s _ _ _ hr hc, Bool.xor_assoc, Bool.xor_self,
    Bool.xor_false]

/-- Where a bit of the sprite falls, the second drawing finds the pixel on exactly when the first found it off. -/
theorem flag_drawAt_twice_iff (s : State) (v : Vector Byte 16) (n ox oy : Nat) :
    (State.drawAt { s.drawAt n ox oy with v := v } n ox oy).readV 15#4 = 1#8 ↔
      ∃ r c, r < 32 ∧ c < 64 ∧ pixel s.disp r c = false ∧ spriteBit s n ox oy r c = true := by
  rw [flag_drawAt_iff]
  refine exists₂_congr fun r c => and_congr_right fun hr => and_congr_right fun hc => ?_
  rw [spriteBit_afterDraw]
  refine and_congr_left fun hbit => ?_
  rw [pixel_drawAt s _ _ _ hr hc, hbit, Bool.xor_true, Bool.not_eq_true']

/-- Settles O53: with the registers put back the second drawing has the same range and the same origin. -/
theorem drawTwiceRestores : Obligations.DrawTwiceRestores := fun x y _ s h =>
  ⟨_, _, exec_drw_inside x y h, exec_drw_inside x y h, fun _ _ => pixel_drawAt_twice s s.v _ _ _,
    flag_drawAt_twice_iff s s.v _ _ _⟩

end Sys2Proof.Machine

/-! PROOFS. Family 44_timers_random.md: the transfers between the timers and the registers, and the random byte. -/

namespace Sys2Proof.Machine

/-! ## The timers (44_timers_random.md R140 to R142) -/

/-- The tone follows the sound timer (60_exceptions.md R174). -/
theorem soundActive_iff (s : State) : s.soundActive = true ↔ s.st ≠ 0#8 := decide_eq_true_iff

/-- A write of the delay timer leaves the registers and memory alone. -/
theorem setDt_changes (s : State) (b : Byte) :
    (∀ y, State.readV { s with dt := b } y = s.readV y) ∧ SameBytes s { s with dt := b } :=
  ⟨fun _ => rfl, fun _ => rfl⟩

/-- A write of the sound timer leaves the registers and memory alone. -/
theorem setSt_changes (s : State) (b : Byte) :
    (∀ y, State.readV { s with st := b } y = s.readV y) ∧ SameBytes s { s with st := b } :=
  ⟨fun _ => rfl, fun _ => rfl⟩

/-- Settles O54: `Fx07` is one write of `V[x]`, `Fx15` one write of the delay timer. -/
theorem delayTimerTransfers : Obligations.DelayTimerTransfers := by
  intro x s
  obtain ⟨hregs, hbytes⟩ := setDt_changes s (s.readV x)
  exact ⟨⟨rfl, rfl⟩,
    ⟨s.writeV x s.dt, rfl, readV_writeV_same s x s.dt, writeV_changes s x s.dt⟩,
    ⟨{ s with dt := s.readV x }, rfl, rfl, hregs, rfl, hbytes⟩⟩

/-- Settles O55: the sound timer, which the tone follows, ends as the source register. -/
theorem soundTimerTransfer : Obligations.SoundTimerTransfer := by
  intro x s
  obtain ⟨hregs, hbytes⟩ := setSt_changes s (s.readV x)
  exact ⟨{ s with st := s.readV x }, rfl, rfl, soundActive_iff _, hregs, rfl, hbytes⟩

/-! ## The random byte (44_timers_random.md R143) -/

/-- Settles O56: the one write of `V[x]` takes the library's bitwise AND. -/
theorem randomIsMasked : Obligations.RandomIsMasked := by
  intro x nn s
  refine ⟨s.writeV x (s.randIn &&& nn), rfl, fun j => ?masked, writeV_changes s x _⟩
  case masked =>
    rw [readV_writeV_same]
    exact BitVec.getLsbD_and

end Sys2Proof.Machine

/-! PROOFS. Family 45_input.md: the key a register names, the lowest key that is down, and the key instructions. -/

namespace Sys2Proof.Machine

/-! ## The skips on a key (45_input.md R150, R151, R153) -/

/-- The latch has 16 bits, so a number above 15 names no key (92_eei_decisions.md D11). -/
theorem pressed_eq_decide (s : State) (k : Byte) :
    s.pressed k = decide (k.toNat ≤ 15 ∧ s.key.getLsbD k.toNat = true) := by
  rw [Bool.eq_iff_iff, decide_eq_true_iff]
  exact ⟨fun h => ⟨Nat.le_of_lt_succ (BitVec.lt_of_getLsbD h), h⟩, And.right⟩

/-- Settles O57: each is a skip on the key that `V[x]` names, or on its negation. -/
theorem keySkips : Obligations.KeySkips := by
  refine fun x s => ⟨⟨s.skipIf (s.pressed (s.readV x)), rfl, skipIf_onlyPc s _, ?pressed⟩,
    ⟨s.skipIf (!s.pressed (s.readV x)), rfl, skipIf_onlyPc s _, ?notPressed⟩⟩
  case pressed => rw [pressed_eq_decide, skipIf_decide_pc]
  case notPressed => rw [pressed_eq_decide, ← decide_not, skipIf_decide_not_pc]

/-! ## The wait for a key (45_input.md R152) -/

theorem key_eq_zero {key : BitVec 16} (h : ∀ k, k < 16 → key.getLsbD k = false) : key = 0#16 :=
  BitVec.eq_of_getLsbD_eq fun k hk => (h k hk).trans BitVec.getLsbD_zero.symm

theorem key_ne_zero {key : BitVec 16} {k : Nat} (h : key.getLsbD k = true) : key ≠ 0#16 := by
  rintro rfl
  exact Bool.false_ne_true (BitVec.getLsbD_zero.symm.trans h)

/-- The search from key 0 up ends at the key that is down with none down below it. -/
theorem lowestKey_eq {key : BitVec 16} {k : Nat} (hk : k < 16) (hdown : key.getLsbD k = true)
    (hbelow : ∀ j, j < k → key.getLsbD j = false) : lowestKey key = k := by
  have hfind : (List.range 16).findIdx (fun j => key.getLsbD j) = k := by
    rw [List.findIdx_eq (by rwa [List.length_range])]
    simp only [List.getElem_range]
    exact ⟨hdown, hbelow⟩
  rw [lowestKey, hfind, Nat.mod_eq_of_lt hk]

/-- Settles O58: one write of `V[x]` and one of `pc`, both decided by whether the latch is zero. -/
theorem keyWait : Obligations.KeyWait := by
  intro x s
  refine ⟨_, rfl, fun hnone => ?waits, fun k hk hdown hbelow => ?completes, (writeV_changes s x _).1, rfl,
    fun _ => rfl⟩
  case waits =>
    have hzero := key_eq_zero hnone
    exact ⟨if_pos hzero, (readV_writeV_same s x _).trans (if_pos hzero)⟩
  case completes =>
    have hne := key_ne_zero hdown
    have hvalue : (BitVec.ofNat 8 (lowestKey s.key)).toNat = k := by
      rw [lowestKey_eq hk hdown hbelow, BitVec.toNat_ofNat, Nat.mod_eq_of_lt (by omega)]
    exact ⟨if_neg hne, (congrArg BitVec.toNat ((readV_writeV_same s x _).trans (if_neg hne))).trans hvalue⟩

end Sys2Proof.Machine

/-! PROOFS. Family 60_exceptions.md: the tick, the halted block, the ticks a free host draws, and precise faults. -/

namespace Sys2Proof.Machine

/-! ## The ticks of a running and of a halted block (60_exceptions.md R170, R172) -/

theorem halted_eq_true {s : State} (h : s.fault ≠ .none) : s.halted = true := decide_eq_true h

/-- A tick is the closed form of one tick, so what is said of `ticks` holds of `tick`. -/
theorem ticks_one (s : State) : s.ticks 1 = s.tick := (ticks_succ 0 s).trans (ticks_zero s.tick)

theorem ticks_of_halted {s : State} (k : Nat) (h : s.fault ≠ .none) : s.ticks k = s := if_pos (halted_eq_true h)

theorem ticks_of_running {s : State} (k : Nat) (h : s.fault = .none) :
    s.ticks k = { s with dt := countDownBy k s.dt, st := countDownBy k s.st } := by
  rw [State.ticks, halted_eq_false h]
  rfl

theorem toNat_timers_ticks {s : State} (k : Nat) (h : s.fault = .none) :
    (s.ticks k).dt.toNat = s.dt.toNat - k ∧ (s.ticks k).st.toNat = s.st.toNat - k := by
  rw [ticks_of_running k h]
  exact ⟨toNat_countDownBy k s.dt, toNat_countDownBy k s.st⟩

theorem ticks_hostQueue (k : Nat) (s : State) : (s.ticks k).hostQueue = s.hostQueue := by rw [ticks_onlyTimers]

theorem ticks_hostTime (k : Nat) (s : State) : (s.ticks k).hostTime = s.hostTime := by rw [ticks_onlyTimers]

/-- The host's own fields play no part in the ticks. -/
theorem ticks_withHost (k : Nat) (s : State) (q : List HostRequest) (time : Nat) :
    State.ticks k { s with hostQueue := q, hostTime := time } =
      { s.ticks k with hostQueue := q, hostTime := time } := by
  by_cases h : s.fault = .none
  · rw [ticks_of_running k h]
    exact ticks_of_running k h
  · rw [ticks_of_halted k h]
    exact ticks_of_halted k h

theorem ticks_withQueue (k : Nat) (s : State) (q : List HostRequest) :
    State.ticks k { s with hostQueue := q } = { s.ticks k with hostQueue := q } := by
  rw [ticks_withHost k s q s.hostTime, ← ticks_hostTime k s]

/-! ## The steps that perform ticks (60_exceptions.md R172, 00_scope.md R5) -/

theorem step_of_tick {s : State} {rest : List HostRequest} (h : s.hostQueue = .tick :: rest) :
    step s = .next { s.ticks 1 with hostQueue := rest } := by
  rw [step_of_request h, perform, ← ticks_one, ticks_withQueue]

theorem stepTimes_succ {s t : State} (k : Nat) (h : step s = .next t) : stepTimes (k + 1) s = stepTimes k t := by
  rw [stepTimes, h]

theorem stepTimes_one (s : State) : stepTimes 1 s = step s := by
  rw [stepTimes]
  cases step s <;> rfl

/-- The steps that perform `k` requested ticks come to the closed form of `k` ticks; `m` more steps follow. -/
theorem stepTimes_of_ticks (k m : Nat) {s : State} {rest : List HostRequest}
    (h : s.hostQueue = List.replicate k .tick ++ rest) :
    stepTimes (k + m) s = stepTimes m { s.ticks k with hostQueue := rest } := by
  induction k generalizing s with
  | zero => rw [ticks_zero, Nat.zero_add, show rest = s.hostQueue from h.symm]
  | succ k ih =>
    calc stepTimes (k + 1 + m) s
      _ = stepTimes (k + m) { s.ticks 1 with hostQueue := List.replicate k .tick ++ rest } := by
        rw [Nat.succ_add]
        exact stepTimes_succ (k + m) (step_of_tick h)
      _ = stepTimes m { s.ticks (k + 1) with hostQueue := rest } := by
        rw [ih rfl, ticks_withQueue, ticks_one, ← ticks_succ]

/-- Settles O10: the step of a tick is the closed form of one tick. -/
theorem tickCountsDown : Obligations.TickCountsDown := by
  intro s rest hq
  have honly := ticks_onlyTimers 1 s
  refine ⟨_, step_of_tick hq, congrArg (fun t => { t with hostQueue := rest }) honly,
    fun a => congrArg (fun t => t.byteAt a) honly, toNat_timers_ticks 1, fun hf => ?halted⟩
  case halted =>
    rw [ticks_of_halted 1 hf]
    exact ⟨rfl, rfl⟩

/-- Settles O11: `k` requested ticks are the closed form of `k` ticks, whose subtraction stops at 0. -/
theorem ticksNeverUnderflow : Obligations.TicksNeverUnderflow := by
  intro k s rest hf hq
  obtain ⟨hdt, hst⟩ := toNat_timers_ticks k hf
  exact ⟨_, stepTimes_of_ticks k 0 hq, hdt, hst,
    congrArg (fun t => { t with hostQueue := rest }) (ticks_onlyTimers k s)⟩

/-! ## The free draw (60_exceptions.md R173) -/

/-- Settles O7: the drawn ticks come to their closed form, which the drawn request holds too. -/
theorem emptyQueueDrawsTicksThenStep : Obligations.EmptyQueueDrawsTicksThenStep := by
  intro s hq
  have hqueue : (s.ticks (Config.ticksBefore s.hostTime)).hostQueue = [] := (ticks_hostQueue _ s).trans hq
  rw [step_of_empty hq, stepTimes_of_ticks _ 1 rfl, stepTimes_one, step_of_request rfl, ticks_withHost, perform,
    State.drawRequest, State.present, hqueue]
  rfl

/-! ## The halted block (60_exceptions.md R170) -/

/-- The code on the output is 0 for the empty latch alone (60_exceptions.md R160). -/
theorem status_eq_zero_iff (s : State) : s.status = 0#3 ↔ s.fault = .none := by
  unfold State.status
  cases s.fault <;> decide

theorem cycle_of_halted {s : State} (h : s.fault ≠ .none) : cycle s = .next s := if_pos (halted_eq_true h)

/-- Settles O9: neither a cycle nor a tick changes a halted block. -/
theorem haltedBlockIsFrozen : Obligations.HaltedBlockIsFrozen := by
  intro s r rest hf hq hrst
  have hstatus : s.status ≠ 0#3 := (status_eq_zero_iff s).not.mpr hf
  cases r with
  | step k b => exact ⟨_, (step_of_request hq).trans (cycle_of_halted hf), rfl, hstatus⟩
  | tick =>
    have hstep := step_of_tick hq
    rw [ticks_of_halted 1 hf] at hstep
    exact ⟨_, hstep, rfl, hstatus⟩
  | rst p => exact absurd rfl (hrst p)

/-! ## Precise faults (60_exceptions.md R162 to R165, R168, R169) -/

/-- The outcome is a next state with `code` in the latch, and a fault changes nothing but the latch. -/
def PreciseOutcome (s : State) (outcome : Result) (code : FaultCode) : Prop :=
  ∃ t, outcome = .next t ∧ t.fault = code ∧ (code ≠ .none → t = { s with fault := code })

namespace PreciseOutcome

theorem of_noFault {s t : State} (h : t.fault = .none) : PreciseOutcome s (.next t) .none :=
  ⟨t, rfl, h, fun hne => absurd rfl hne⟩

theorem of_raise (s : State) (code : FaultCode) : PreciseOutcome s (.next (s.raise code)) code :=
  ⟨_, rfl, rfl, fun _ => rfl⟩

/-- A range check: its fault exactly where the check fails, else what the instruction does. -/
theorem of_check {s t : State} {len : Nat} {p : Prop} [Decidable p] (hp : s.dataFaults len = true ↔ p)
    (ht : t.fault = .none) :
    PreciseOutcome s (.next (if s.dataFaults len then s.raise .memOob else t)) (if p then .memOob else .none) := by
  by_cases h : p
  · rw [if_pos (hp.mpr h), if_pos h]
    exact of_raise s .memOob
  · rw [if_neg (mt hp.mp h), if_neg h]
    exact of_noFault ht

end PreciseOutcome

/-- The range check of an instruction that accesses at least one byte. -/
theorem dataFaults_succ_iff (s : State) (k : Nat) : s.dataFaults (k + 1) = true ↔ 4096 ≤ s.i.toNat + k :=
  (dataFaults_iff s (k + 1)).trans (and_iff_right k.succ_pos)

theorem callTo_precise {s : State} (target : Word) (hf : s.fault = .none) (hsp : s.sp.toNat ≤ 16) :
    PreciseOutcome s (s.callTo target) (if s.sp.toNat = 16 then .stackOverflow else .none) := by
  by_cases h : s.sp.toNat = 16
  · rw [callTo_of_full target h, if_pos h]
    exact .of_raise s .stackOverflow
  · rw [callTo_of_room target (by omega), if_neg h]
    exact .of_noFault hf

theorem popPc_precise {s : State} (hf : s.fault = .none) (hsp : s.sp.toNat ≤ 16) :
    PreciseOutcome s s.popPc (if s.sp.toNat = 0 then .stackUnderflow else .none) := by
  by_cases h : s.sp.toNat = 0
  · rw [popPc_of_empty h, if_pos h]
    exact .of_raise s .stackUnderflow
  · rw [popPc_of_entry (by omega) (by omega), if_neg h]
    exact .of_noFault hf

/-- Settles O12: four instructions check a byte range and two the stack; no other writes the latch. -/
theorem faultsArePrecise : Obligations.FaultsArePrecise := by
  intro i s hf hsp
  cases i with
  | drw x y n => exact PreciseOutcome.of_check (dataFaults_iff s n.toNat) hf
  | ldB x => exact PreciseOutcome.of_check (dataFaults_succ_iff s 2) hf
  | ldMemVx x | ldVxMem x => exact PreciseOutcome.of_check (dataFaults_succ_iff s x.toNat) hf
  | call nnn => exact callTo_precise (addrWord nnn) hf hsp
  | ret => exact popPc_precise hf hsp
  | _ => exact PreciseOutcome.of_noFault hf

end Sys2Proof.Machine
